-- ==== Sys2Proof/Word.lean ====
section
/-! DEFINITION. The word and byte types of the block (00_scope.md R9, R12: unsigned 32-bit registers, byte-addressed memory) and the two directions every per-direction element is indexed by. -/

namespace Sys2Proof

/-- A 32-bit register of the block: a command register, an address, a length, a handle (92 D6). -/
abbrev Word := BitVec 32

/-- One byte of system memory. -/
abbrev Byte := BitVec 8

/-- A direction (00_scope.md R17): `tx` is memory to serial interface, `rx` serial interface to memory. -/
inductive Dir
  | tx
  | rx
deriving DecidableEq, Repr, Inhabited

/-- One value per direction: `ch[d]`, `cb[d]`, the control bits of `d`. -/
structure PerDir (α : Type) where
  tx : α
  rx : α
deriving DecidableEq, Repr, Inhabited

/-- The element of direction `d`. -/
def PerDir.get {α : Type} (p : PerDir α) : Dir → α
  | .tx => p.tx
  | .rx => p.rx

/-- The same elements with `d`'s replaced by `v`. -/
def PerDir.set {α : Type} (p : PerDir α) (d : Dir) (v : α) : PerDir α :=
  match d with
  | .tx => { p with tx := v }
  | .rx => { p with rx := v }

/-- `NULL` (00_scope.md R9, 92 D6): the address that stands for "no transfer". -/
abbrev null : Word := 0#32

/-- The number of byte addresses, `2 ^ ADDR_W` (00_scope.md R9). -/
abbrev addrSpace : Nat := 2 ^ 32

end Sys2Proof
end

