-- ==== Sys2Proof/Syntax.lean ====
section
/-! DEFINITION. The operation set of the block: one constructor of `Instr` per row of spec/opcode_table.json (00_scope.md R8, 30_encoding.md R74, R75), and the words that arrive on its three ports (R70). -/

namespace Sys2Proof

/-- The eleven operations. Command operands stay in `x[0..2]` (30_encoding.md R72) and are no part of the term; the event operands are (R75). -/
inductive Instr
  /-- `CONFIGURE`, 41_configure.md R100. -/
  | configure
  /-- `REGISTER_CALLBACK` with `DIR = TX`, 47_query.md R166. -/
  | registerCallbackTx
  /-- `REGISTER_CALLBACK` with `DIR = RX`, 47_query.md R166. -/
  | registerCallbackRx
  /-- `SEND`, 42_arm.md R114. -/
  | send
  /-- `RECEIVE`, 42_arm.md R115. -/
  | receive
  /-- `DISABLE` with `DIR = TX`, 46_disable.md R161. -/
  | disableTx
  /-- `DISABLE` with `DIR = RX`, 46_disable.md R161. -/
  | disableRx
  /-- `DISABLE` with `DIR = BOTH`, 46_disable.md R161. -/
  | disableBoth
  /-- `GET_CONFIG`, 47_query.md R165. -/
  | getConfig
  /-- `IRQ`, 45_dispatch.md R150: `r` is the raw status word sampled at entry (bit 0 TX FIFO-ready, 1 TX overrun, 2 RX FIFO-ready, 3 RX overrun). -/
  | irq (r : BitVec 4)
  /-- `DMA_DONE`, 43_dma.md R123: the completion of direction `d` with the engine's status `st`. -/
  | dmaDone (d : Dir) (st : Word)
deriving DecidableEq, Repr

/-- The direction operand of `DISABLE` (30_encoding.md R71, R74, R87): `tx`, `rx` or `both`. -/
inductive DirSel
  | tx
  | rx
  | both
deriving DecidableEq, Repr

/-- A word on one of the three ports (30_encoding.md R70): "A decoder tells the format from the port the word arrives on, never from the word." -/
inductive Arrival
  /-- The host's write of `CMD`. -/
  | cmd (w : BitVec 32)
  /-- A dispatcher activation with its four raw flags (`EVT_IRQ`). -/
  | evtIrq (r : BitVec 4)
  /-- A DMA completion (`EVT_DMA`): bit 32 is `dir`, bits 31:0 are `st`, as the opcode table lays them out. -/
  | evtDma (w : BitVec 33)
deriving DecidableEq, Repr

end Sys2Proof
end

