-- ==== Sys2Proof/Config.lean ====
section
/-! DEFINITION. What is fixed for one instance of the block (00_scope.md R9) and every value the spec leaves open. Open values are constants without a body: no proof can learn one. -/

namespace Sys2Proof

/-- `LAYOUT` (00_scope.md R9): the buffer layout of stereo transfers. -/
inductive Layout
  | interleaved
  | split
deriving DecidableEq, Repr, Inhabited

/-- `BYTE_ORDER` (00_scope.md R9, 20_memory.md R52). -/
inductive ByteOrder
  | little
  | big
deriving DecidableEq, Repr, Inhabited

/-- The frame rule of one pump iteration (44_pump.md R140). -/
inductive FrameLayout
  | mono
  | interleaved
  | split
deriving DecidableEq, Repr, Inhabited

/-- The parameter record as written down, before the legality check of 00_scope.md R10 and 70_reset_and_hazards.md R203 item 1 (`ParamSpec.wf` in WellFormed.lean). -/
structure ParamSpec where
  /-- `CLOCK_SOURCE_HZ`. -/
  clockSourceHz : Nat
  /-- `WSS_16`, `WSS_24`, `WSS_32`: no relation between them is assumed (40_clock_divisor.md R94). -/
  wss16 : Nat
  wss24 : Nat
  wss32 : Nat
  /-- `DMA_TX`, `DMA_RX`. -/
  dmaTx : Bool
  dmaRx : Bool
  /-- `LAYOUT`. -/
  layout : Layout
  /-- `TRIG_TX`, `TRIG_RX`. -/
  trigTx : Nat
  trigRx : Nat
  /-- `PERIPH_TX_ADDR`, `PERIPH_RX_ADDR`. -/
  periphTxAddr : Word
  periphRxAddr : Word
  /-- `STATUS_MASKED`, true in this spec (60_exceptions.md R171), kept as a parameter. -/
  statusMasked : Bool
  /-- `BYTE_ORDER`, little in this spec (20_memory.md R52), kept as a parameter. -/
  byteOrder : ByteOrder
deriving DecidableEq, Repr

/-- The stored DeviceConfig (10_state.md R23). -/
structure DeviceConfig where
  sampleRate : Word
  bitDepth : Word
  channelCount : Word
deriving DecidableEq, Repr, Inhabited

/-- The peripheral control elements of one direction (10_state.md R29). -/
structure PortCtl where
  chanEn : Bool
  blkEn : Bool
  fifoIe : Bool
  ovrIe : Bool
  wlen : BitVec 6
deriving DecidableEq, Repr, Inhabited

/-- The two status bits of one direction (10_state.md R30): FIFO-ready and overrun. -/
structure StatusBits where
  rdy : Bool
  ovr : Bool
deriving DecidableEq, Repr, Inhabited

/-- The elements 10_state.md R40 calls unspecified: one draw of all of them. -/
structure PowerOnDraw where
  x0 : Word
  x1 : Word
  x2 : Word
  x3 : Word
  x4 : Word
  x5 : Word
  cmd : Word
  res : Word
  cfg : DeviceConfig
  clkDiv : BitVec 10
  wss : Nat
  clkEn : Bool
  achievedBclk : Word
  ctl : PerDir PortCtl
deriving DecidableEq, Repr, Inhabited

namespace Config

/-- `DIV_MIN` (00_scope.md R9). -/
def divMin : Nat := 2

/-- `DIV_MAX` (00_scope.md R9). -/
def divMax : Nat := 1023

/-- The least `CLOCK_SOURCE_HZ` the source's own example allows (00_scope.md R11). -/
def clockLeast : Nat := 3072000

/-- The bound `CLOCK_SOURCE_HZ` stays below by the source's own example (00_scope.md R11). -/
def clockBound : Nat := 1572864000

/-! ### OPEN parameters of the instance that runs from reset (log 1, log 2) -/

/-- What places `CLOCK_SOURCE_HZ` within the bounds of R11 (log 28). -/
opaque clockSourceDraw : Nat
opaque wss16 : Nat
opaque wss24 : Nat
opaque wss32 : Nat
/-- Whether the direction is in DMA mode, where the layout lets it be (R10). -/
opaque dmaWanted : Dir → Bool
opaque layout : Layout
/-- One less than the direction's trigger level (levels are at least 1, R9). -/
opaque trigPred : Dir → Nat
opaque periphAddr : Dir → Word
/-- `BURST`: the DMA burst size of a FIFO trigger level (R9, 43_dma.md R122). -/
opaque burst : Nat → Nat

/-! ### Free values, each applied to the counter of draws unless it says otherwise -/

/-- The unspecified elements at a power-on reset (10_state.md R40; log 3). -/
opaque powerOn : Nat → PowerOnDraw
/-- The raw flags the serial interface drives when the block comes out of reset (R30; log 8). -/
opaque rawAtReset : PerDir StatusBits
/-- `cfg` after a failed divisor check (41_configure.md R103; log 20). -/
opaque cfgDraw : Nat → DeviceConfig
/-- A DMA engine status no queued answer gives (93 U13; log 5). -/
opaque dmaStatus : Nat → Word
/-- A receive FIFO entry no queued entry gives (93 U4, U15; log 5). -/
opaque rxEntry : Nat → Nat × Nat
/-- The peripheral control elements after a suspend (60_exceptions.md R193; log 17). -/
opaque suspendCtl : Nat → PerDir PortCtl
/-- What a byte of memory that nothing has written reads as, by its address (log 4). -/
opaque memByte : Nat → Byte
/-- The frame rule used when the stored channel count is neither 1 nor 2, by that count (log 11). -/
opaque strayLayout : Word → FrameLayout

end Config

end Sys2Proof
end

