-- ==== Sys2Proof/WellFormed.lean ====
section
/-! DEFINITION. Which terms are well formed. Every `Instr` term is an operation of the block, so what can be ill formed is the instance's parameter record: 00_scope.md R9, R10 and 70_reset_and_hazards.md R203 item 1. A `Params` is a record with its legality. -/

namespace Sys2Proof

/-- Every operation term is well formed: "All 16 values of the `IRQ` word and all values of the `DMA_DONE` fields are legal" (30_encoding.md R75), and a command's term has no field (operand values are checked by the command itself, R82). -/
def Instr.wf : Instr → Bool
  | .configure => true
  | .registerCallbackTx => true
  | .registerCallbackRx => true
  | .send => true
  | .receive => true
  | .disableTx => true
  | .disableRx => true
  | .disableBoth => true
  | .getConfig => true
  | .irq _ => true
  | .dmaDone _ _ => true

/-- `CLOCK_SOURCE_HZ > 0` (R9). -/
def ParamSpec.clockPositive (p : ParamSpec) : Bool := decide (0 < p.clockSourceHz)

/-- `TRIG_TX >= 1` (R9). -/
def ParamSpec.trigTxPositive (p : ParamSpec) : Bool := decide (0 < p.trigTx)

/-- `TRIG_RX >= 1` (R9). -/
def ParamSpec.trigRxPositive (p : ParamSpec) : Bool := decide (0 < p.trigRx)

/-- Not `LAYOUT = Split` together with a DMA direction (R10). -/
def ParamSpec.layoutAllowsDma (p : ParamSpec) : Bool :=
  match p.layout with
  | .interleaved => true
  | .split => !p.dmaTx && !p.dmaRx

/-- `3072000 <= CLOCK_SOURCE_HZ < 1572864000` (R11): the source's own example, `configure(48000, 16, 2)`, succeeds. A constraint on a value someone fixes, not one of the legality conditions of 70_reset_and_hazards.md R203 item 1, so `wf` does not ask it (log 28). -/
def ParamSpec.clockFitsExample (p : ParamSpec) : Bool :=
  decide (Config.clockLeast ≤ p.clockSourceHz) && decide (p.clockSourceHz < Config.clockBound)

/-- The parameter record describes an instance that may be constructed (R10: "The model refuses to construct an instance with this combination"). -/
def ParamSpec.wf (p : ParamSpec) : Bool :=
  p.clockPositive && p.trigTxPositive && p.trigRxPositive && p.layoutAllowsDma

/-- The parameters of an instance: a record together with its legality. -/
structure Params where
  spec : ParamSpec
  legal : spec.wf = true
deriving DecidableEq, Repr

/-- `CLOCK_SOURCE_HZ`. -/
def Params.clockSourceHz (p : Params) : Nat := p.spec.clockSourceHz

/-- `DMA_d`. -/
def Params.dma (p : Params) : Dir → Bool
  | .tx => p.spec.dmaTx
  | .rx => p.spec.dmaRx

/-- `TRIG_d`. -/
def Params.trig (p : Params) : Dir → Nat
  | .tx => p.spec.trigTx
  | .rx => p.spec.trigRx

/-- `PERIPH_d_ADDR`. -/
def Params.periphAddr (p : Params) : Dir → Word
  | .tx => p.spec.periphTxAddr
  | .rx => p.spec.periphRxAddr

/-- `CLOCK_SOURCE_HZ` of the instance that runs from reset: any value within the bounds of R11 (log 28). -/
def Config.clockSourceHz : Nat :=
  Config.clockLeast + Config.clockSourceDraw % (Config.clockBound - Config.clockLeast)

theorem Config.clockSourceHz_bounds :
    Config.clockLeast ≤ Config.clockSourceHz ∧ Config.clockSourceHz < Config.clockBound := by
  have h : Config.clockSourceDraw % (Config.clockBound - Config.clockLeast) < Config.clockBound - Config.clockLeast :=
    Nat.mod_lt _ (by decide)
  exact ⟨Nat.le_add_right _ _, by unfold Config.clockSourceHz; omega⟩

/-- The parameter record of the instance that runs from reset: the OPEN parameters of `Config`, the clock within the bounds of R11, with a DMA direction only where the layout allows one (R10), and the two parameters this spec fixes (R9: `STATUS_MASKED = true`, `BYTE_ORDER = little`). -/
def Config.paramSpec : ParamSpec where
  clockSourceHz := Config.clockSourceHz
  wss16 := Config.wss16
  wss24 := Config.wss24
  wss32 := Config.wss32
  dmaTx := Config.dmaWanted .tx && decide (Config.layout = .interleaved)
  dmaRx := Config.dmaWanted .rx && decide (Config.layout = .interleaved)
  layout := Config.layout
  trigTx := Config.trigPred .tx + 1
  trigRx := Config.trigPred .rx + 1
  periphTxAddr := Config.periphAddr .tx
  periphRxAddr := Config.periphAddr .rx
  statusMasked := true
  byteOrder := .little

/-- The instance that runs from reset. -/
def Config.params : Params where
  spec := Config.paramSpec
  legal := by
    have h : Config.paramSpec.layoutAllowsDma = true := by
      unfold ParamSpec.layoutAllowsDma Config.paramSpec
      cases Config.layout <;> simp
    have hz : 0 < Config.clockSourceHz := Nat.lt_of_lt_of_le (by decide) Config.clockSourceHz_bounds.1
    simp only [ParamSpec.wf, h, Bool.and_true]
    simp [ParamSpec.clockPositive, ParamSpec.trigTxPositive, ParamSpec.trigRxPositive,
      Config.paramSpec, hz]

/-- The instance that runs from reset meets R11. -/
theorem Config.params_clockFitsExample : Config.params.spec.clockFitsExample = true := by
  have h := Config.clockSourceHz_bounds
  show (decide _ && decide _) = true
  simp [Config.paramSpec, Config.params, h]

end Sys2Proof
end

