-- ==== Sys2Proof/Decode.lean ====
section
/-! DEFINITION. The decoder (30_encoding.md R70 to R75, R80, R89), total on every word of every port and rejecting by name, and the encoder beside it, written from the table of R74. -/

namespace Sys2Proof

/-- Why a `CMD` word selects no operation (30_encoding.md R80). -/
inductive Reject
  /-- A bit of `RSV` (31:6) is set. -/
  | reservedBits
  /-- `OP` is 0x0 or 0x7 to 0xF. -/
  | reservedOp
  /-- `DIR != 0b00` on an operation without a direction. -/
  | dirNotAllowed
  /-- `DIR` is 0b00 or 0b11 on `REGISTER_CALLBACK`, or 0b00 on `DISABLE`. -/
  | dirNotLegal
deriving DecidableEq, Repr

/-- `OP`, bits 3:0 of a `CMD` word (R71). -/
def opField (w : BitVec 32) : BitVec 4 := w.extractLsb' 0 4

/-- `DIR`, bits 5:4 of a `CMD` word (R71). -/
def dirField (w : BitVec 32) : BitVec 2 := w.extractLsb' 4 2

/-- `RSV`, bits 31:6 of a `CMD` word (R71). -/
def rsvField (w : BitVec 32) : BitVec 26 := w.extractLsb' 6 26

/-- An operation that takes no direction: `DIR` must be 0b00 (R74). -/
def withoutDir (w : BitVec 32) (i : Instr) : Except Reject Instr :=
  if dirField w = 0b00#2 then .ok i else .error .dirNotAllowed

/-- `REGISTER_CALLBACK`: `DIR` is 0b01 or 0b10 (R74). -/
def decodeRegisterCallback (w : BitVec 32) : Except Reject Instr :=
  if dirField w = 0b01#2 then .ok .registerCallbackTx
  else if dirField w = 0b10#2 then .ok .registerCallbackRx
  else .error .dirNotLegal

/-- `DISABLE`: `DIR` is 0b01, 0b10 or 0b11 (R74). -/
def decodeDisable (w : BitVec 32) : Except Reject Instr :=
  if dirField w = 0b01#2 then .ok .disableTx
  else if dirField w = 0b10#2 then .ok .disableRx
  else if dirField w = 0b11#2 then .ok .disableBoth
  else .error .dirNotLegal

/-- A `CMD` word, by its fields (R71, R74, R80). -/
def decodeCmd (w : BitVec 32) : Except Reject Instr :=
  if rsvField w ≠ 0#26 then .error .reservedBits
  else if opField w = 0x1#4 then withoutDir w .configure
  else if opField w = 0x2#4 then decodeRegisterCallback w
  else if opField w = 0x3#4 then withoutDir w .send
  else if opField w = 0x4#4 then withoutDir w .receive
  else if opField w = 0x5#4 then decodeDisable w
  else if opField w = 0x6#4 then withoutDir w .getConfig
  else .error .reservedOp

/-- `dir` of an `EVT_DMA` word: 0 = `TX`, 1 = `RX` (R75). -/
def dmaDirField (w : BitVec 33) : Dir := if w.getLsbD 32 then .rx else .tx

/-- `st` of an `EVT_DMA` word (R75). -/
def dmaStatusField (w : BitVec 33) : Word := w.extractLsb' 0 32

/-- The operation a word on a port selects. Only a `CMD` word can be rejected (R75, R80). -/
def decode : Arrival → Except Reject Instr
  | .cmd w => decodeCmd w
  | .evtIrq r => .ok (.irq r)
  | .evtDma w => .ok (.dmaDone (dmaDirField w) (dmaStatusField w))

/-- `dir` as its bit (R75). -/
def Dir.bit : Dir → BitVec 1
  | .tx => 0#1
  | .rx => 1#1

/-- The word of each operation, from the full command words of R74 and the event formats of R75. -/
def encode : Instr → Arrival
  | .configure => .cmd 0x00000001#32
  | .registerCallbackTx => .cmd 0x00000012#32
  | .registerCallbackRx => .cmd 0x00000022#32
  | .send => .cmd 0x00000003#32
  | .receive => .cmd 0x00000004#32
  | .disableTx => .cmd 0x00000015#32
  | .disableRx => .cmd 0x00000025#32
  | .disableBoth => .cmd 0x00000035#32
  | .getConfig => .cmd 0x00000006#32
  | .irq r => .evtIrq r
  | .dmaDone d st => .evtDma (d.bit ++ st)

/-- The arrival a table row's word stands for. The port is told by the row's width (log 7): up to 8 bits is `EVT_IRQ` (4 bits in one byte), up to 32 is `CMD`, more is `EVT_DMA` (33 bits in five bytes). -/
def tableArrival (nbits w : Nat) : Arrival :=
  if nbits ≤ 8 then .evtIrq (BitVec.ofNat 4 w)
  else if nbits ≤ 32 then .cmd (BitVec.ofNat 32 w)
  else .evtDma (BitVec.ofNat 33 w)

/-- How many bits the port of a table row's word carries. -/
def tablePortWidth (nbits : Nat) : Nat :=
  if nbits ≤ 8 then 4 else if nbits ≤ 32 then 32 else 33

/-- The instruction the decoder reads from a table row's word; none where it rejects the word or the port cannot carry it. -/
def decodeTableWord (nbits w : Nat) : Option Instr :=
  if w < 2 ^ tablePortWidth nbits then
    match decode (tableArrival nbits w) with
    | .ok i => some i
    | .error _ => none
  else none

end Sys2Proof
end

