-- ==== Sys2Proof/Machine/State.lean ====
section
/-! DEFINITION. The state of the block and its environment as plain data (10_state.md), the output events of its trace (R38), the stimuli of its agents (00_scope.md R7), the reasons a step can stop, and the state after reset (R40, 70_reset_and_hazards.md R200). -/

namespace Sys2Proof.Machine

/-- A Channel record `ch[d]` (10_state.md R26). -/
structure Channel where
  /-- Address of the borrowed buffer, or `NULL`. -/
  buffer : Word
  /-- "total byte length of the current transfer" -/
  blockBytes : Word
  /-- "total samples to move" -/
  samples : Word
  /-- "samples moved so far" -/
  count : Word
  /-- "current read/write cursor into buffer", in samples. -/
  index : Word
  /-- "hardware channel currently enabled" -/
  running : Bool
  /-- The overrun latch. -/
  overrun : Bool
deriving DecidableEq, Repr

/-- The Channel record after reset (R40). -/
def Channel.reset : Channel where
  buffer := null
  blockBytes := 0#32
  samples := 0#32
  count := 0#32
  index := 0#32
  running := false
  overrun := false

/-- The result codes of commands (60_exceptions.md R175). -/
inductive ResultCode
  | ok
  | invalidConfig
  | invalidArgument
  | inProgress
  | transportError
  | illegalCommand
deriving DecidableEq, Repr

/-- The callback status codes (60_exceptions.md R177). -/
inductive CbStatus
  | ok
  | txError
  | rxError
  | overrun
deriving DecidableEq, Repr

/-- The direction field of a DMA descriptor (43_dma.md R122). -/
inductive TransferDir
  | memToPeriph
  | periphToMem
deriving DecidableEq, Repr

/-- A DMA block descriptor `DESC(d)` (43_dma.md R122). `context` is (this instance, `d`). -/
structure Descriptor where
  src : Word
  dst : Word
  direction : TransferDir
  length : Word
  burst : Nat
  context : Dir
deriving DecidableEq, Repr

/-- The diagnostics (60_exceptions.md R191). -/
inductive LogRecord
  | warnClkInexact (bclk achieved : Nat)
  | errDmaOverrun (d : Dir)
  | errDmaStatus (d : Dir) (st : Word)
  | errDmaStop (d : Dir) (st : Word)
deriving DecidableEq, Repr

/-- The output events (10_state.md R38). Where the environment answers an event, the answer is recorded with it (log 19). Sample values are the unsigned numbers of 20_memory.md R53. -/
inductive Event
  | txw (l r : Nat)
  | rxr (l r : Nat)
  | fifoClr (d : Dir)
  | ovrClr (d : Dir)
  | cb (d : Dir) (status : CbStatus) (buffer handle : Word)
  | log (rec : LogRecord)
  | dmaCfg (d : Dir) (desc : Descriptor) (st : Word)
  | dmaStart (d : Dir) (st : Word)
  | dmaStop (d : Dir) (st : Word)
  | cacheClean (addr len : Word)
  | cacheInv (addr len : Word)
  | result (code : ResultCode)
deriving DecidableEq, Repr

/-- What an agent does next (00_scope.md R7). `arrive` issues an operation; the others are what the agents do to the block and its memory between operations. -/
inductive Stimulus
  /-- A word arrives on a port: the host writes `CMD`, an activation, a DMA completion. -/
  | arrive (a : Arrival)
  /-- The host writes an operand register `x[0..2]` (10_state.md R20). -/
  | operand (i : Fin 3) (v : Word)
  /-- The host stores a byte to system memory. -/
  | hostStore (a : Word) (v : Byte)
  /-- The host loads a byte of system memory. -/
  | hostLoad (a : Word)
  /-- The DMA engine stores a byte of a receive transfer (43_dma.md R126 item 5). -/
  | engineStore (a : Word) (v : Byte)
  /-- The serial interface changes its raw flags (60_exceptions.md R170). -/
  | rawFlags (r : BitVec 4)
  /-- A power-management suspend and resume of the platform, before `CONFIGURE` is run again (R193). -/
  | suspend
  /-- The power-on (or hardware) reset of the block (70_reset_and_hazards.md R200). -/
  | powerOn
deriving DecidableEq, Repr

/-- System memory: the bytes something has written, as (address, byte) pairs in one canonical form (`Memory.wf`): addresses below 2^32, strictly rising. A byte not listed has no known value; reading it gives the free value `Config.memByte` (log 4). -/
abbrev Memory := List Host.Cell

/-- The state of the block, its memory, its trace and its environment's inputs. -/
structure State where
  /-- The instance's parameters (00_scope.md R9, R10). No step changes them (log 1). -/
  params : Params
  /-- Command registers (10_state.md R20): `x0`, `x1`, `x2` are ARG0..2, `x3`, `x4`, `x5` are OUT0..2. -/
  x0 : Word
  x1 : Word
  x2 : Word
  x3 : Word
  x4 : Word
  x5 : Word
  /-- `CMD`. -/
  cmd : Word
  /-- `RES`. -/
  res : Word
  /-- The stored DeviceConfig (R23). -/
  cfg : DeviceConfig
  /-- `cfg_valid` (R24). -/
  cfgValid : Bool
  /-- The clock registers (R25). -/
  clkDiv : BitVec 10
  wss : Nat
  clkEn : Bool
  /-- 32 bits (R35), holding the natural of R25 (log 14). -/
  achievedBclk : Word
  clkWarn : Bool
  /-- The Channel records (R26). -/
  ch : PerDir Channel
  /-- The callback handles, 0 meaning none (R28). -/
  cb : PerDir Word
  /-- The peripheral control elements (R29). -/
  ctl : PerDir PortCtl
  /-- The raw flags the serial interface drives (R30; environment, log 8). -/
  raw : PerDir StatusBits
  /-- System memory (R36; environment). -/
  mem : Memory
  /-- The trace of output events, oldest first (R38). -/
  trace : List Event
  /-- The stimuli to come, the next one first (model's own, log 6). -/
  pending : List Stimulus
  /-- The statuses the DMA engine answers next (model's own, log 5). -/
  dmaAnswers : List Word
  /-- The entries the receive FIFO delivers next, left and right (model's own, log 5): what `RXR` will answer, not the hardware FIFO's contents, so `FIFO_CLR` leaves it (log 31). -/
  rxEntries : List (Nat × Nat)
  /-- How many free values have been drawn (model's own, log 5). -/
  draws : Nat
deriving DecidableEq, Repr

/-- Why the machine stops with a fault. The block itself raises none: "no rule reachable from `IRQ` raises an error" (60_exceptions.md R184), there is no misaligned access fault (20_memory.md R54), and a command's error is a result (R175). -/
inductive Fault
  /-- Raised by `step` on a host store into a borrowed buffer, or a host load from a borrowed receive buffer: "a run with such an access is a race and no claim covers it" (93 U12; 20_memory.md R59, R60). Safe: the machine stops where the hardware goes on (log 15). -/
  | bufferRace
deriving DecidableEq, Repr

/-- Why an operation or a stimulus has no meaning here. -/
inductive Refusal
  /-- The instruction of this name has no meaning yet. Raised by a refused arm of `exec`. Safe. -/
  | notModelled (mnemonic : String)
  /-- Raised by `SEND` and `RECEIVE` while `cfg_valid = 0`: "the source gives the command no meaning; the model refuses it" (42_arm.md R116, 93 U1). Safe. -/
  | unconfigured
  /-- Raised by `SEND` and `RECEIVE` while `cb[d] = 0` (42_arm.md R116, 93 U2). Safe. -/
  | noCallback
  /-- Raised by `step` on a DMA engine store outside an in-flight DMA receive buffer, which the engine's contract excludes (43_dma.md R126 item 5). Safe (log 16). -/
  | engineContract
  /-- Raised by `step` on a suspend with a transfer in flight (93 U18: `refuse`). Safe. -/
  | suspendInFlight
deriving DecidableEq, Repr

/-- The power-on reset of the block (70_reset_and_hazards.md R200, 10_state.md R40): the values the table gives, one draw for every element it calls unspecified, an empty trace. The instance, the memory and the environment's inputs are not the block's and stay. -/
def State.powerOnReset (s : State) : State :=
  let p := Config.powerOn s.draws
  { s with
    x0 := p.x0, x1 := p.x1, x2 := p.x2, x3 := p.x3, x4 := p.x4, x5 := p.x5
    cmd := p.cmd, res := p.res
    cfg := p.cfg, cfgValid := false
    clkDiv := p.clkDiv, wss := p.wss, clkEn := p.clkEn, achievedBclk := p.achievedBclk
    clkWarn := false
    ch := { tx := Channel.reset, rx := Channel.reset }
    cb := { tx := 0#32, rx := 0#32 }
    ctl := p.ctl
    trace := []
    draws := s.draws + 1 }

/-- The machine right after reset (10_state.md R40): draw number 0 for what the table calls unspecified, no memory listed, nothing pending. -/
def State.reset : State where
  params := Config.params
  x0 := (Config.powerOn 0).x0
  x1 := (Config.powerOn 0).x1
  x2 := (Config.powerOn 0).x2
  x3 := (Config.powerOn 0).x3
  x4 := (Config.powerOn 0).x4
  x5 := (Config.powerOn 0).x5
  cmd := (Config.powerOn 0).cmd
  res := (Config.powerOn 0).res
  cfg := (Config.powerOn 0).cfg
  cfgValid := false
  clkDiv := (Config.powerOn 0).clkDiv
  wss := (Config.powerOn 0).wss
  clkEn := (Config.powerOn 0).clkEn
  achievedBclk := (Config.powerOn 0).achievedBclk
  clkWarn := false
  ch := { tx := Channel.reset, rx := Channel.reset }
  cb := { tx := 0#32, rx := 0#32 }
  ctl := (Config.powerOn 0).ctl
  raw := Config.rawAtReset
  mem := []
  trace := []
  pending := []
  dmaAnswers := []
  rxEntries := []
  draws := 1

end Sys2Proof.Machine
end

