-- ==== Sys2Proof/Machine/Ops.lean ====
section
/-! DEFINITION. The named operations over memory, registers and the trace (00_scope.md R13), the end of a command (`return OK`, `raise E`; 60_exceptions.md R175, R176), and the entry and the return of a dispatcher activation (R174, R183). -/

namespace Sys2Proof.Machine

/-! ### Memory (20_memory.md R52, R57) -/

/-- The canonical form, over the least address an entry may have: addresses strictly rising and below `2 ^ 32`. -/
def Memory.wfFrom : Nat → Memory → Bool
  | _, [] => true
  | lo, (a, _) :: m => decide (lo ≤ a) && decide (a < addrSpace) && Memory.wfFrom (a + 1) m

/-- The canonical form of memory. -/
def Memory.wf (m : Memory) : Bool := Memory.wfFrom 0 m

/-- The byte something has written at an address. -/
def Memory.lookup : Memory → Nat → Option Byte
  | [], _ => none
  | (b, v) :: m, a => if b = a then some v else Memory.lookup m a

/-- What one byte reads as: the byte written last, or the free value of an address nothing has written (log 4). -/
def Memory.read (m : Memory) (a : Nat) : Byte := (m.lookup a).getD (Config.memByte a)

/-- One byte stored; every other byte stays. -/
def Memory.store : Memory → Nat → Byte → Memory
  | [], a, v => [(a, v)]
  | (b, w) :: m, a, v =>
    if a < b then (a, v) :: (b, w) :: m
    else if a = b then (a, v) :: m
    else (b, w) :: Memory.store m a v

/-- The `n` bytes at `a`, `a + 1`, …, each address modulo `2 ^ 32`. -/
def Memory.loadBytes (m : Memory) (a : Nat) : Nat → List Byte
  | 0 => []
  | n + 1 => m.read (a % addrSpace) :: Memory.loadBytes m (a + 1) n

/-- The bytes `bs` stored at `a`, `a + 1`, …, each address modulo `2 ^ 32`. -/
def Memory.storeBytes (m : Memory) (a : Nat) : List Byte → Memory
  | [] => m
  | b :: bs => Memory.storeBytes (m.store (a % addrSpace) b) (a + 1) bs

/-- The number whose digits to base 256 are the bytes, the least significant first. -/
def valueOfBytes : List Byte → Nat
  | [] => 0
  | b :: bs => b.toNat + 256 * valueOfBytes bs

/-- The `n` low digits of `v` to base 256, the least significant first. -/
def bytesOfValue : Nat → Nat → List Byte
  | 0, _ => []
  | n + 1, v => BitVec.ofNat 8 v :: bytesOfValue n (v / 256)

/-- Bytes in memory order from digits least significant first, and back (R52; `big` is the parameter's other value, log 21). -/
def inByteOrder (o : ByteOrder) (bs : List Byte) : List Byte :=
  match o with
  | .little => bs
  | .big => bs.reverse

/-- `MemRead(addr, n)` (00_scope.md R13, 20_memory.md R52). The address is used as given (R65); that every agent names a byte by the same address and no access is denied is the model's choice (log 30, DESIGN CHOICE). -/
def State.memRead (s : State) (a n : Nat) : Nat :=
  valueOfBytes (inByteOrder s.params.spec.byteOrder (s.mem.loadBytes a n))

/-- `MemWrite(addr, n, v)` (00_scope.md R13, 20_memory.md R52), with addresses as in `State.memRead` (log 30). -/
def State.memWrite (s : State) (a n v : Nat) : State :=
  { s with mem := s.mem.storeBytes a (inByteOrder s.params.spec.byteOrder (bytesOfValue n v)) }

/-! ### Per-direction elements -/

/-- `ch[d] <- c`. -/
def State.setCh (s : State) (d : Dir) (c : Channel) : State := { s with ch := s.ch.set d c }

/-- The control elements of `d` `<- c`. -/
def State.setCtl (s : State) (d : Dir) (c : PortCtl) : State := { s with ctl := s.ctl.set d c }

/-- `cb[d] <- h`. -/
def State.setCb (s : State) (d : Dir) (h : Word) : State := { s with cb := s.cb.set d h }

/-- `fifo_ie[d] <- v`. -/
def State.setFifoIe (s : State) (d : Dir) (v : Bool) : State :=
  s.setCtl d { s.ctl.get d with fifoIe := v }

/-- `ovr_ie[d] <- v`. -/
def State.setOvrIe (s : State) (d : Dir) (v : Bool) : State :=
  s.setCtl d { s.ctl.get d with ovrIe := v }

/-! ### The trace and the end of a command -/

/-- `emit EV(args)` (00_scope.md R13). -/
def State.emit (s : State) (e : Event) : State := { s with trace := s.trace ++ [e] }

/-- The number of a result code (60_exceptions.md R175), as `RES` holds it: the code in bits 3:0, zero above. -/
def ResultCode.word : ResultCode → Word
  | .ok => 0x0#32
  | .invalidConfig => 0x1#32
  | .invalidArgument => 0x2#32
  | .inProgress => 0x3#32
  | .transportError => 0x4#32
  | .illegalCommand => 0xF#32

/-- The number of a callback status (60_exceptions.md R177), the 2-bit `status` field of a `CB` event (30_encoding.md R83). -/
def CbStatus.code : CbStatus → BitVec 2
  | .ok => 0
  | .txError => 1
  | .rxError => 2
  | .overrun => 3

/-- The end of a command with a result code, `return OK` or `raise E`: `RES` is written and `RESULT(code)` emitted; what earlier lines wrote stays (R175, R176). -/
def State.finish (s : State) (c : ResultCode) : State := { s with res := c.word }.emit (.result c)

/-- `raise TransportError(info)`: `info` goes to `x[3]` (00_scope.md R13). -/
def State.finishWith (s : State) (c : ResultCode) (info : Word) : State :=
  { s with x3 := info }.finish c

/-- A `CMD` word that selects no operation (30_encoding.md R80): "changes no state other than `RES`, emits `RESULT(IllegalCommand)`, and writes `RES <- 0xF`". -/
def State.illegalCommand (s : State) : State := s.finish .illegalCommand

/-! ### What the environment answers (log 5) -/

/-- The status the DMA engine answers to its next request: the next one queued, else a free value (93 U13). -/
def State.dmaAnswer (s : State) : Word :=
  match s.dmaAnswers with
  | st :: _ => st
  | [] => Config.dmaStatus s.draws

/-- That answer used up. -/
def State.dmaAnswered (s : State) : State :=
  match s.dmaAnswers with
  | _ :: rest => { s with dmaAnswers := rest }
  | [] => { s with draws := s.draws + 1 }

/-- A request to the DMA engine: the event it emits is made of the answer it gets (10_state.md R38). -/
def State.dmaRequest (s : State) (ev : Word → Event) : State := s.dmaAnswered.emit (ev s.dmaAnswer)

/-- The entry the receive FIFO delivers next: the next one queued, else a free value (93 U4, U15). -/
def State.rxEntry (s : State) : Nat × Nat :=
  match s.rxEntries with
  | e :: _ => e
  | [] => Config.rxEntry s.draws

/-- That entry removed from both halves of the FIFO. -/
def State.rxPopped (s : State) : State :=
  match s.rxEntries with
  | _ :: rest => { s with rxEntries := rest }
  | [] => { s with draws := s.draws + 1 }

/-- The values modulo `2 ^ cfg.bit_depth`: a sample port carries `cfg.bit_depth` bits per half (10_state.md R36, 20_memory.md R53). -/
def State.portValue (s : State) (v : Nat) : Nat := v % 2 ^ s.cfg.bitDepth.toNat

/-- The left value `RXR` delivers. -/
def State.rxLeft (s : State) : Nat := s.portValue s.rxEntry.1

/-- The right value `RXR` delivers. -/
def State.rxRight (s : State) : Nat := s.portValue s.rxEntry.2

/-- `emit RXR()`: both halves are read (44_pump.md R136). -/
def State.rxr (s : State) : State := s.rxPopped.emit (.rxr s.rxLeft s.rxRight)

/-- `emit OVR_CLR(d)`: the pulse lowers the raw overrun flag of `d` (60_exceptions.md R170). -/
def State.ovrClr (s : State) (d : Dir) : State :=
  { s with raw := s.raw.set d { s.raw.get d with ovr := false } }.emit (.ovrClr d)

/-! ### The dispatcher's entry and return -/

/-- The four raw flags of a status word (30_encoding.md R75). -/
def rawOfWord (r : BitVec 4) : PerDir StatusBits where
  tx := { rdy := r.getLsbD 0, ovr := r.getLsbD 1 }
  rx := { rdy := r.getLsbD 2, ovr := r.getLsbD 3 }

/-- Entry of a dispatcher activation (60_exceptions.md R174): "saves no state and switches no mode: it samples the raw word `r` once". The sample is what the serial interface drives at that moment (log 8). -/
def State.enterIrq (s : State) (r : BitVec 4) : State := { s with raw := rawOfWord r }

/-- Return from an activation (60_exceptions.md R183): "Nothing is restored because nothing was saved." -/
def State.leaveIrq (s : State) : State := s

end Sys2Proof.Machine
end

