-- ==== Sys2Proof/Machine/Operands.lean ====
section
/-! DEFINITION. Operand forms: the command registers under their operand names (30_encoding.md R72), the quantities derived from the stored configuration (00_scope.md R15), sample addressing in the three layouts (20_memory.md R51, 44_pump.md R133 to R140), the DMA descriptor (43_dma.md R122), the borrowed buffer, and the register numbers (10_state.md R35). -/

namespace Sys2Proof.Machine

/-! ### Command operands (30_encoding.md R72) -/

/-- `sample_rate = x[0]` of `CONFIGURE`. -/
def State.argSampleRate (s : State) : Word := s.x0

/-- `bit_depth = x[1]` of `CONFIGURE`. -/
def State.argBitDepth (s : State) : Word := s.x1

/-- `channel_count = x[2]` of `CONFIGURE`. -/
def State.argChannelCount (s : State) : Word := s.x2

/-- `buffer = x[0]` of `SEND` and `RECEIVE`. -/
def State.argBuffer (s : State) : Word := s.x0

/-- `length = x[1]` of `SEND` and `RECEIVE`. -/
def State.argLength (s : State) : Word := s.x1

/-- `callback = x[0]` of `REGISTER_CALLBACK`. -/
def State.argCallback (s : State) : Word := s.x0

/-! ### Derived quantities (00_scope.md R15), from the configuration stored at that moment -/

/-- `bps = cfg.bit_depth / 8`. -/
def State.bps (s : State) : Nat := s.cfg.bitDepth.toNat / 8

/-- `nch = cfg.channel_count`. -/
def State.nch (s : State) : Nat := s.cfg.channelCount.toNat

/-- `frame_bytes = nch * bps`. -/
def State.frameBytes (s : State) : Nat := s.nch * s.bps

/-! ### Samples (20_memory.md R51) -/

/-- `sample_addr(d, i) = (ch[d].buffer + i * bps) mod 2^32`. -/
def State.sampleAddr (s : State) (d : Dir) (i : Nat) : Nat :=
  ((s.ch.get d).buffer.toNat + i * s.bps) % addrSpace

/-- `rd(d, i)` (44_pump.md, opening). -/
def State.rd (s : State) (d : Dir) (i : Nat) : Nat := s.memRead (s.sampleAddr d i) s.bps

/-- `wr(d, i, v)` (44_pump.md, opening). -/
def State.wr (s : State) (d : Dir) (i v : Nat) : State := s.memWrite (s.sampleAddr d i) s.bps v

/-- Which frame rule applies (44_pump.md R140): "The selection is made per frame from the `cfg` stored at that moment." A count other than 1 or 2 can only be a draw; which rule it selects is a free value (log 11). -/
def State.frameLayout (s : State) : FrameLayout :=
  if s.cfg.channelCount = 1#32 then .mono
  else if s.cfg.channelCount = 2#32 then
    match s.params.spec.layout with
    | .interleaved => .interleaved
    | .split => .split
  else Config.strayLayout s.cfg.channelCount

/-- The index of a frame's left sample: `index` in every layout (R133 to R139). The right one is `index + 1` interleaved and `index + samples / 2` split. -/
def State.leftIndex (s : State) (d : Dir) : Nat := (s.ch.get d).index.toNat

/-- How far `index` moves per frame. -/
def indexStep : FrameLayout → Word
  | .mono => 1#32
  | .interleaved => 2#32
  | .split => 1#32

/-- How far `count` moves per frame. -/
def countStep : FrameLayout → Word
  | .mono => 1#32
  | .interleaved => 2#32
  | .split => 2#32

/-- The cursors of `d` after a frame. -/
def State.advance (s : State) (d : Dir) (l : FrameLayout) : State :=
  s.setCh d { s.ch.get d with
    index := (s.ch.get d).index + indexStep l
    count := (s.ch.get d).count + countStep l }

/-! ### The DMA descriptor (43_dma.md R122) -/

/-- `DESC(d)`. -/
def State.desc (s : State) (d : Dir) : Descriptor where
  src := match d with
    | .tx => s.ch.tx.buffer
    | .rx => s.params.periphAddr .rx
  dst := match d with
    | .tx => s.params.periphAddr .tx
    | .rx => s.ch.rx.buffer
  direction := match d with
    | .tx => .memToPeriph
    | .rx => .periphToMem
  length := (s.ch.get d).blockBytes
  burst := Config.burst (s.params.trig d)
  context := d

/-! ### The borrowed buffer (20_memory.md R50, R59) -/

/-- Whether a transfer is in flight on `d` (00_scope.md R17). -/
def State.inFlight (s : State) (d : Dir) : Bool := decide ((s.ch.get d).buffer ≠ null)

/-- The address lies in `[buffer, buffer + block_bytes)` modulo `2^32`. -/
def State.inBuffer (s : State) (d : Dir) (a : Word) : Bool :=
  decide ((a - (s.ch.get d).buffer).toNat < (s.ch.get d).blockBytes.toNat)

/-- The address is borrowed by the block for a transfer of `d`. -/
def State.borrowed (s : State) (d : Dir) (a : Word) : Bool := s.inFlight d && s.inBuffer d a

/-! ### Register numbers (10_state.md R35): labels only, no operation addresses by number -/

/-- The thirteen elements of direction `d`, from the direction's base on. -/
def State.dirElement (s : State) (d : Dir) : Nat → Option Nat
  | 0 => some (s.ch.get d).buffer.toNat
  | 1 => some (s.ch.get d).blockBytes.toNat
  | 2 => some (s.ch.get d).samples.toNat
  | 3 => some (s.ch.get d).count.toNat
  | 4 => some (s.ch.get d).index.toNat
  | 5 => some (s.ch.get d).running.toNat
  | 6 => some (s.ch.get d).overrun.toNat
  | 7 => some (s.cb.get d).toNat
  | 8 => some (s.ctl.get d).chanEn.toNat
  | 9 => some (s.ctl.get d).blkEn.toNat
  | 10 => some (s.ctl.get d).fifoIe.toNat
  | 11 => some (s.ctl.get d).ovrIe.toNat
  | 12 => some (s.ctl.get d).wlen.toNat
  | _ => none

/-- The widths of a direction's elements (R35), from the direction's base on. -/
def dirElementWidth (n : Nat) : Option Nat :=
  if n < 5 then some 32
  else if n < 7 then some 1
  else if n = 7 then some 32
  else if n < 12 then some 1
  else if n = 12 then some 6
  else none

/-- The width R35 gives the element with a register number; none for `wss` ("as `WSS_*`", a natural) and for a number without an element. -/
def elementWidth (n : Nat) : Option Nat :=
  match n with
  | 0 => some 32
  | 1 => some 32
  | 2 => some 32
  | 3 => some 1
  | 4 => some 10
  | 5 => none
  | 6 => some 1
  | 7 => some 32
  | 8 => some 1
  | n => if n < 16 then none else if n < 32 then dirElementWidth (n - 16) else dirElementWidth (n - 32)

/-- The value of the element with a register number; none for a number R35 gives no element. -/
def State.element (s : State) (n : Nat) : Option Nat :=
  match n with
  | 0 => some s.cfg.sampleRate.toNat
  | 1 => some s.cfg.bitDepth.toNat
  | 2 => some s.cfg.channelCount.toNat
  | 3 => some s.cfgValid.toNat
  | 4 => some s.clkDiv.toNat
  | 5 => some s.wss
  | 6 => some s.clkEn.toNat
  | 7 => some s.achievedBclk.toNat
  | 8 => some s.clkWarn.toNat
  | n => if n < 16 then none else if n < 32 then s.dirElement .tx (n - 16) else s.dirElement .rx (n - 32)

end Sys2Proof.Machine
end

