-- ==== Sys2Proof/Machine/Flags.lean ====
section
/-! DEFINITION. Every flag the spec computes: the status mux (60_exceptions.md R171), the interrupt line (R172), the derived flags and the phase of a direction (10_state.md R32, R33), and the clock warning's comparison (40_clock_divisor.md R93). -/

namespace Sys2Proof.Machine

/-- The status bits of one direction behind its interrupt enables. -/
def maskedBits (raw : StatusBits) (c : PortCtl) : StatusBits where
  rdy := raw.rdy && c.fifoIe
  ovr := raw.ovr && c.ovrIe

/-- The status word `STATUS(r)` (60_exceptions.md R171), with the enables of this state. -/
def State.status (s : State) (r : BitVec 4) : PerDir StatusBits :=
  if s.params.spec.statusMasked then
    { tx := maskedBits (rawOfWord r).tx s.ctl.tx, rx := maskedBits (rawOfWord r).rx s.ctl.rx }
  else rawOfWord r

/-- A direction's part of the interrupt line. -/
def lineOf (raw : StatusBits) (c : PortCtl) : Bool := (raw.rdy && c.fifoIe) || (raw.ovr && c.ovrIe)

/-- The interrupt line for given raw flags (60_exceptions.md R172): "The equation uses the masked flags whatever `STATUS_MASKED` is." -/
def State.irqLineFor (s : State) (raw : PerDir StatusBits) : Bool :=
  lineOf raw.tx s.ctl.tx || lineOf raw.rx s.ctl.rx

/-- The interrupt line at the raw flags the serial interface drives now. -/
def State.irqLine (s : State) : Bool := s.irqLineFor s.raw

/-- The phases of a direction (10_state.md R33). -/
inductive Phase
  | idle
  | primed
  | armed
  | draining
deriving DecidableEq, Repr

/-- The phase of direction `d` (10_state.md R33). -/
def State.phase (s : State) (d : Dir) : Phase :=
  if (s.ch.get d).buffer = null then
    if (s.ch.get d).running then .primed else .idle
  else if s.params.dma d || decide ((s.ch.get d).count = 0#32) then .armed
  else .draining

/-- `armed[d]` (10_state.md R32). -/
def State.armedFlag (s : State) (d : Dir) : Bool := decide ((s.ch.get d).buffer ≠ null)

/-- `draining[d]` (10_state.md R32). -/
def State.drainingFlag (s : State) (d : Dir) : Bool :=
  s.armedFlag d && !s.params.dma d && decide (0 < (s.ch.get d).count.toNat)

/-- `overrun[d]` (10_state.md R32). -/
def State.overrunFlag (s : State) (d : Dir) : Bool := (s.ch.get d).overrun

/-- `warn = (achieved != bclk)` (40_clock_divisor.md R93). -/
def clockWarning (bclk achieved : Nat) : Bool := decide (achieved ≠ bclk)

end Sys2Proof.Machine
end

