-- ==== Sys2Proof/Machine/Arm.lean ====
section
/-! DEFINITION. `SEND` and `RECEIVE` (42_arm.md R110 to R116), with the arming path of a DMA direction (43_dma.md R120, R121). -/

namespace Sys2Proof.Machine

/-- `FRESH_START(d)` (42_arm.md R112): the four enables and `running`. -/
def State.freshStart (s : State) (d : Dir) : State :=
  (s.setCtl d { s.ctl.get d with chanEn := true, blkEn := true, fifoIe := true, ovrIe := true }).setCh d
    { s.ch.get d with running := true }

/-- `REARM(d)` (42_arm.md R113): the two interrupt enables only. -/
def State.rearm (s : State) (d : Dir) : State :=
  s.setCtl d { s.ctl.get d with fifoIe := true, ovrIe := true }

/-- The first line of `ARM_PUMP(d)`: `samples <- len / bps; count <- 0; index <- 0`. -/
def State.initCursors (s : State) (d : Dir) : State :=
  s.setCh d { s.ch.get d with
    samples := BitVec.ofNat 32 (s.argLength.toNat / s.bps), count := 0#32, index := 0#32 }

/-- `ARM_PUMP(d)` (42_arm.md R111). -/
def State.armPump (s : State) (d : Dir) : State :=
  if (s.ch.get d).running then (s.initCursors d).rearm d else (s.initCursors d).freshStart d

/-- `ROLLBACK(d, st)` (43_dma.md R121): the buffer pointer back to `NULL`, the status in `x[3]`. -/
def State.rollback (s : State) (d : Dir) (st : Word) : State :=
  (s.setCh d { s.ch.get d with buffer := null }).finishWith .transportError st

/-- Line 1 of `ARM_DMA(d)`: the source buffer of a transmit is cleaned, a receive is skipped. The event leaves every byte of memory as it was: whether there is a data cache is left open (20_memory.md R64), and the model has none (log 27, DESIGN CHOICE). -/
def State.cleanForTx (s : State) (d : Dir) : State :=
  match d with
  | .tx => s.emit (.cacheClean s.ch.tx.buffer s.ch.tx.blockBytes)
  | .rx => s

/-- Line 4 of `ARM_DMA(d)`: on the first arm only; `fifo_ie` is never set in DMA mode. -/
def State.startDmaChannel (s : State) (d : Dir) : State :=
  if (s.ch.get d).running then s
  else
    (s.setCtl d { s.ctl.get d with chanEn := true, blkEn := true, ovrIe := true }).setCh d
      { s.ch.get d with running := true }

/-- Lines 3 and 4 of `ARM_DMA(d)`, and `return OK`. -/
def State.armDmaStart (s : State) (d : Dir) : State :=
  let s' := s.dmaRequest (.dmaStart d)
  if s.dmaAnswer ≠ 0#32 then s'.rollback d s.dmaAnswer else (s'.startDmaChannel d).finish .ok

/-- Lines 2 to 4 of `ARM_DMA(d)`. -/
def State.armDmaConfigure (s : State) (d : Dir) : State :=
  let s' := s.dmaRequest (.dmaCfg d (s.desc d))
  if s.dmaAnswer ≠ 0#32 then s'.rollback d s.dmaAnswer else s'.armDmaStart d

/-- `ARM_DMA(d)` with the end of the command (43_dma.md R120). -/
def State.armDma (s : State) (d : Dir) : State := (s.cleanForTx d).armDmaConfigure d

/-- Line 4 of `ARM(d)`: "Store buffer/block_bytes into the Channel". -/
def State.borrow (s : State) (d : Dir) : State :=
  s.setCh d { s.ch.get d with buffer := s.argBuffer, blockBytes := s.argLength }

/-- Lines 4 to 6 of `ARM(d)`. -/
def State.armAccepted (s : State) (d : Dir) : State :=
  if s.params.dma d then (s.borrow d).armDma d else ((s.borrow d).armPump d).finish .ok

/-- `ARM(d)` (42_arm.md R110): the three checks in the order the rule lists them. -/
def State.arm (s : State) (d : Dir) : State :=
  if s.argBuffer = null ∨ s.argLength = 0#32 then s.finish .invalidArgument
  else if (s.ch.get d).buffer ≠ null then s.finish .inProgress
  else if s.argLength.toNat % s.frameBytes ≠ 0 then s.finish .invalidArgument
  else s.armAccepted d

/-- A `SEND` or `RECEIVE` with the preconditions of 42_arm.md R116: without a valid configuration or a registered callback "the source gives the command no meaning; the model refuses it" (93 U1, U2; log 10). -/
def armCommand (d : Dir) (s : State) : Host.Outcome State Fault Refusal :=
  if s.cfgValid = false then .refused .unconfigured
  else if s.cb.get d = 0#32 then .refused .noCallback
  else .next (s.arm d)

/-- `SEND` (R114). -/
def execSend (s : State) : Host.Outcome State Fault Refusal := armCommand .tx s

/-- `RECEIVE` (R115). -/
def execReceive (s : State) : Host.Outcome State Fault Refusal := armCommand .rx s

end Sys2Proof.Machine
end

