-- ==== Sys2Proof/Machine/Clock.lean ====
section
/-! DEFINITION. The Clock/Divisor Calculator (40_clock_divisor.md): pure functions of their operands and the parameters, on exact naturals (R97). `none` is `Fail(InvalidConfig)`. -/

namespace Sys2Proof.Machine

/-- What `CLKDIV` answers when it succeeds (R90). -/
structure ClkOut where
  divisor : Nat
  bclk : Nat
  achieved : Nat
  warn : Bool
deriving DecidableEq, Repr

/-- `WSSLOOKUP(bit_depth)` (R94). -/
def wssLookup (p : Params) (depth : Word) : Option Nat :=
  if depth = 16#32 then some p.spec.wss16
  else if depth = 24#32 then some p.spec.wss24
  else if depth = 32#32 then some p.spec.wss32
  else none

/-- `bclk = 2 * bit_depth * sample_rate`, without wrap-around (R91, R97). -/
def requestedBclk (depth rate : Word) : Nat := 2 * depth.toNat * rate.toNat

/-- The divisor range check (R92). -/
def divisorInRange (divisor : Nat) : Bool :=
  decide (Config.divMin ≤ divisor) && decide (divisor ≤ Config.divMax)

/-- The outputs for a divisor in range (R91, R93): both divisions are floors. -/
def clkOutFor (hz bclk : Nat) : ClkOut where
  divisor := hz / bclk
  bclk := bclk
  achieved := hz / (hz / bclk)
  warn := clockWarning bclk (hz / (hz / bclk))

/-- `CLKDIV(bit_depth, sample_rate)` (R91, R92, R93, R96). -/
def clkDivOf (p : Params) (depth rate : Word) : Option ClkOut :=
  if rate = 0#32 then none
  else if divisorInRange (p.clockSourceHz / requestedBclk depth rate) then
    some (clkOutFor p.clockSourceHz (requestedBclk depth rate))
  else none

/-- The whole calculator as one function (R95): the word-select lookup first. -/
def clockCalc (p : Params) (depth rate : Word) : Option (Nat × ClkOut) :=
  match wssLookup p depth with
  | none => none
  | some w => (clkDivOf p depth rate).map fun c => (w, c)

end Sys2Proof.Machine
end

