-- ==== Sys2Proof/Machine/Configure.lean ====
section
/-! DEFINITION. `CONFIGURE` (41_configure.md R100), its steps under their own names. -/

namespace Sys2Proof.Machine

/-- Lines 3 and 4 (R102): both channel enables and all four interrupt enables cleared; `blk_en` stays. -/
def quiesceCtl (c : PortCtl) : PortCtl := { c with chanEn := false, fifoIe := false, ovrIe := false }

/-- Lines 3 and 4 for both directions. -/
def State.quiesce (s : State) : State :=
  { s with ctl := { tx := quiesceCtl s.ctl.tx, rx := quiesceCtl s.ctl.rx } }

/-- Line 5 when `CLKDIV` fails (R103): `cfg_valid <- 0; cfg <- draw`. -/
def State.invalidateCfg (s : State) : State :=
  { s with cfgValid := false, cfg := Config.cfgDraw s.draws, draws := s.draws + 1 }

/-- Line 6 (R104): the end state of the clock enable sequence. -/
def State.programClock (s : State) (divisor wss : Nat) : State :=
  { s with clkDiv := BitVec.ofNat 10 divisor, wss := wss, clkEn := true }

/-- Line 8 (R105): `wlen[d] <- depth` for both directions. -/
def State.programWlen (s : State) (depth : Word) : State :=
  { s with ctl := { tx := { s.ctl.tx with wlen := depth.setWidth 6 },
                    rx := { s.ctl.rx with wlen := depth.setWidth 6 } } }

/-- Lines 9 and 10 (R106): the three `cfg` fields together, `cfg_valid <- 1`, the diagnostic registers; `achieved_bclk` is a 32-bit register (10_state.md R35; log 14). -/
def State.commitCfg (s : State) (cfg : DeviceConfig) (c : ClkOut) : State :=
  { s with cfg := cfg, cfgValid := true, achievedBclk := BitVec.ofNat 32 c.achieved, clkWarn := c.warn }

/-- The diagnostic of line 10. -/
def State.logInexact (s : State) (c : ClkOut) : State :=
  if c.warn then s.emit (.log (.warnClkInexact c.bclk c.achieved)) else s

/-- Lines 6 to 11, after the calculator has succeeded. `FIFO_CLR` is an event (R105): the receive entries queued as input and the raw flags stay as they were (log 31, DESIGN CHOICE). -/
def State.configureWith (s : State) (wss : Nat) (c : ClkOut) (cfg : DeviceConfig) : State :=
  ((((((s.programClock c.divisor wss).emit (.fifoClr .tx)).emit (.fifoClr .rx)).programWlen
    cfg.bitDepth).commitCfg cfg c).logInexact c).finish .ok

/-- The configuration the operands ask for. -/
def State.argConfig (s : State) : DeviceConfig where
  sampleRate := s.argSampleRate
  bitDepth := s.argBitDepth
  channelCount := s.argChannelCount

/-- Lines 3 to 11, after the argument checks. -/
def State.configureChecked (s : State) (wss : Nat) : State :=
  match clkDivOf s.params s.argBitDepth s.argSampleRate with
  | none => s.quiesce.invalidateCfg.finish .invalidConfig
  | some c => s.quiesce.configureWith wss c s.argConfig

/-- `CONFIGURE` as a state transformer (R100): the two argument checks change nothing but `RES` when they fail (R101). -/
def State.configure (s : State) : State :=
  match wssLookup s.params s.argBitDepth with
  | none => s.finish .invalidConfig
  | some wss =>
    if s.argChannelCount ≠ 1#32 ∧ s.argChannelCount ≠ 2#32 then s.finish .invalidConfig
    else s.configureChecked wss

/-- `CONFIGURE`. -/
def execConfigure (s : State) : Host.Outcome State Fault Refusal := .next s.configure

end Sys2Proof.Machine
end

