-- ==== Sys2Proof/Machine/Disable.lean ====
section
/-! DEFINITION. `DISABLE` (46_disable.md R160, R161). -/

namespace Sys2Proof.Machine

/-- Line 1 of `DISABLE_ONE(d)`: in DMA mode the engine is stopped; a stop error is logged, not failed. -/
def State.stopDma (s : State) (d : Dir) : State :=
  if s.params.dma d then
    let s' := s.dmaRequest (.dmaStop d)
    if s.dmaAnswer ≠ 0#32 then s'.emit (.log (.errDmaStop d s.dmaAnswer)) else s'
  else s

/-- Lines 2 and 3: all four enables off; `wlen` stays. -/
def disabledCtl (c : PortCtl) : PortCtl :=
  { c with chanEn := false, blkEn := false, fifoIe := false, ovrIe := false }

/-- Line 5: the Channel reset; `block_bytes` stays. -/
def disabledChannel (c : Channel) : Channel :=
  { c with buffer := null, samples := 0#32, count := 0#32, index := 0#32, running := false, overrun := false }

/-- Lines 2 to 5 of `DISABLE_ONE(d)`, in their order (R162: the interrupt enables before the Channel record). `FIFO_CLR` leaves the receive entries queued as input and the raw flags as they were (log 31, DESIGN CHOICE). -/
def State.resetDir (s : State) (d : Dir) : State :=
  let s' := (s.setCtl d (disabledCtl (s.ctl.get d))).emit (.fifoClr d)
  s'.setCh d (disabledChannel (s'.ch.get d))

/-- `DISABLE_ONE(d)` (R160). -/
def State.disableOne (s : State) (d : Dir) : State := (s.stopDma d).resetDir d

/-- `DISABLE` with `DIR = TX`. -/
def execDisableTx (s : State) : Host.Outcome State Fault Refusal := .next ((s.disableOne .tx).finish .ok)

/-- `DISABLE` with `DIR = RX`. -/
def execDisableRx (s : State) : Host.Outcome State Fault Refusal := .next ((s.disableOne .rx).finish .ok)

/-- `DISABLE` with `DIR = BOTH`: transmit, then receive (R161). -/
def execDisableBoth (s : State) : Host.Outcome State Fault Refusal :=
  .next (((s.disableOne .tx).disableOne .rx).finish .ok)

end Sys2Proof.Machine
end

