-- ==== Sys2Proof/Machine/Pump.lean ====
section
/-! DEFINITION. The Interrupt-Pump (44_pump.md): the overrun latch, the six frame rules, completion, and one pump invocation. -/

namespace Sys2Proof.Machine

/-- `OVERRUN_LATCH(d)` (R131). -/
def State.overrunLatch (s : State) (d : Dir) : State :=
  let s' := (s.setOvrIe d false).ovrClr d
  s'.setCh d { s'.ch.get d with overrun := true }

/-- `FRAME_TX`, mono (R133): the one sample goes to both halves. -/
def State.frameTxMono (s : State) : State :=
  (s.emit (.txw (s.rd .tx (s.leftIndex .tx)) (s.rd .tx (s.leftIndex .tx)))).advance .tx .mono

/-- `FRAME_TX`, interleaved stereo (R134). -/
def State.frameTxInterleaved (s : State) : State :=
  (s.emit (.txw (s.rd .tx (s.leftIndex .tx)) (s.rd .tx (s.leftIndex .tx + 1)))).advance .tx .interleaved

/-- `FRAME_TX`, split stereo (R135): the right half of the buffer starts at `samples / 2`. -/
def State.frameTxSplit (s : State) : State :=
  (s.emit (.txw (s.rd .tx (s.leftIndex .tx))
    (s.rd .tx (s.leftIndex .tx + s.ch.tx.samples.toNat / 2)))).advance .tx .split

/-- `FRAME_RX`, mono (R136): both halves are read, the right value is dropped. -/
def State.frameRxMono (s : State) : State :=
  ((s.rxr).wr .rx (s.leftIndex .rx) s.rxLeft).advance .rx .mono

/-- `FRAME_RX`, interleaved stereo (R138). -/
def State.frameRxInterleaved (s : State) : State :=
  (((s.rxr).wr .rx (s.leftIndex .rx) s.rxLeft).wr .rx (s.leftIndex .rx + 1) s.rxRight).advance .rx
    .interleaved

/-- `FRAME_RX`, split stereo (R139). -/
def State.frameRxSplit (s : State) : State :=
  (((s.rxr).wr .rx (s.leftIndex .rx) s.rxLeft).wr .rx
    (s.leftIndex .rx + s.ch.rx.samples.toNat / 2) s.rxRight).advance .rx .split

/-- `FRAME_TX` in the layout that applies (R140). -/
def State.frameTx (s : State) : State :=
  match s.frameLayout with
  | .mono => s.frameTxMono
  | .interleaved => s.frameTxInterleaved
  | .split => s.frameTxSplit

/-- `FRAME_RX` in the layout that applies (R140). -/
def State.frameRx (s : State) : State :=
  match s.frameLayout with
  | .mono => s.frameRxMono
  | .interleaved => s.frameRxInterleaved
  | .split => s.frameRxSplit

/-- One frame of direction `d`. -/
def State.frame (s : State) (d : Dir) : State :=
  match d with
  | .tx => s.frameTx
  | .rx => s.frameRx

/-- Every sample of the transfer of `d` has moved. -/
def State.drained (s : State) (d : Dir) : Bool := decide ((s.ch.get d).count = (s.ch.get d).samples)

/-- Line 4 of `PUMP`: at most `budget` frames, fewer when the transfer ends. -/
def State.pumpFrames (s : State) (d : Dir) : Nat → State
  | 0 => s
  | budget + 1 => if s.drained d then s else State.pumpFrames (s.frame d) d budget

/-- The status a pump-mode completion reports (R137). -/
def completionStatus (overrun : Bool) : CbStatus := if overrun then .overrun else .ok

/-- `COMPLETE(d)` (R137): the FIFO interrupt off, the record released, the callback, then the latch cleared. -/
def State.complete (s : State) (d : Dir) : State :=
  let c := s.ch.get d
  let released := (s.setFifoIe d false).setCh d { c with buffer := null, samples := 0#32, index := 0#32 }
  let called := released.emit (.cb d (completionStatus c.overrun) c.buffer (s.cb.get d))
  called.setCh d { called.ch.get d with overrun := false }

/-- Lines 3 to 5 of `PUMP`, with a transfer in flight. -/
def State.pumpTransfer (s : State) (d : Dir) : State :=
  let s' := s.pumpFrames d (s.params.trig d)
  if s'.drained d then s'.complete d else s'

/-- Line 1 of `PUMP`. -/
def State.latchIf (s : State) (d : Dir) (ovr : Bool) : State := if ovr then s.overrunLatch d else s

/-- `PUMP(d, ovr)` (R130): with no transfer in flight the overrun is latched and nothing moves (R132). -/
def State.pump (s : State) (d : Dir) (ovr : Bool) : State :=
  if ((s.latchIf d ovr).ch.get d).buffer = null then s.latchIf d ovr
  else (s.latchIf d ovr).pumpTransfer d

end Sys2Proof.Machine
end

