-- ==== Sys2Proof/Machine/Event.lean ====
section
/-! DEFINITION. The two event operations: `IRQ`, the Interrupt Dispatcher (45_dispatch.md R150 to R153), and `DMA_DONE` (43_dma.md R123, R124). -/

namespace Sys2Proof.Machine

/-- `DMA_OVERRUN(d)` (45_dispatch.md R151): clear and log, nothing else. -/
def State.dmaOverrun (s : State) (d : Dir) : State := (s.ovrClr d).emit (.log (.errDmaOverrun d))

/-- The part of the dispatcher for one direction (45_dispatch.md R150, R152), given the direction's two status bits. -/
def State.route (s : State) (d : Dir) (b : StatusBits) : State :=
  if (b.rdy || b.ovr) && (s.ch.get d).running then
    if s.params.dma d then s.dmaOverrun d else s.pump d b.ovr
  else s

/-- Transmit first, then receive, both from the one snapshot taken at entry (R150, R153). -/
def State.dispatch (s : State) (st : PerDir StatusBits) : State := (s.route .tx st.tx).route .rx st.rx

/-- `IRQ(r)`: entry, routing, return (45_dispatch.md R150; 60_exceptions.md R174, R183). -/
def execIrq (r : BitVec 4) (s : State) : Host.Outcome State Fault Refusal :=
  .next ((s.enterIrq r).dispatch (s.status r)).leaveIrq

/-- Line 3 of `DMA_DONE`: the CPU cache is invalidated over a received buffer. The event leaves every byte of memory as it was, those beside an unaligned range included: 20_memory.md R64 leaves it open, and the model has no data cache (log 27, DESIGN CHOICE). -/
def State.invalidateRx (s : State) (d : Dir) (b : Word) : State :=
  match d with
  | .tx => s
  | .rx => s.emit (.cacheInv b s.ch.rx.blockBytes)

/-- Line 4 of `DMA_DONE`: a non-zero status is logged. -/
def State.logDmaStatus (s : State) (d : Dir) (st : Word) : State :=
  if st ≠ 0#32 then s.emit (.log (.errDmaStatus d st)) else s

/-- Line 5 of `DMA_DONE`: the callback status. -/
def dmaCbStatus (d : Dir) (st : Word) : CbStatus :=
  if st = 0#32 then .ok
  else match d with
    | .tx => .txError
    | .rx => .rxError

/-- Lines 2 to 6 of `DMA_DONE` (43_dma.md R123): the buffer pointer is cleared first. -/
def State.dmaComplete (s : State) (d : Dir) (st : Word) : State :=
  let b := (s.ch.get d).buffer
  let released := s.setCh d { s.ch.get d with buffer := null }
  ((released.invalidateRx d b).logDmaStatus d st).emit (.cb d (dmaCbStatus d st) b (s.cb.get d))

/-- `DMA_DONE(d, st)` as a state transformer: ignored for a direction that is not in DMA mode or has no transfer (R124). -/
def State.dmaDone (s : State) (d : Dir) (st : Word) : State :=
  if s.params.dma d = false ∨ (s.ch.get d).buffer = null then s else s.dmaComplete d st

/-- `DMA_DONE(d, st)`. -/
def execDmaDone (d : Dir) (st : Word) (s : State) : Host.Outcome State Fault Refusal :=
  .next (s.dmaDone d st)

end Sys2Proof.Machine
end

