-- ==== Sys2Proof/Machine/Query.lean ====
section
/-! DEFINITION. `GET_CONFIG` and `REGISTER_CALLBACK` (47_query.md R165, R166). -/

namespace Sys2Proof.Machine

/-- `GET_CONFIG` as a state transformer (R165, 30_encoding.md R73). -/
def State.getConfig (s : State) : State :=
  { s with x3 := s.cfg.sampleRate, x4 := s.cfg.bitDepth, x5 := s.cfg.channelCount }.finish .ok

/-- `REGISTER_CALLBACK` for direction `d` as a state transformer (R166). -/
def State.registerCallback (s : State) (d : Dir) : State := (s.setCb d s.argCallback).finish .ok

/-- `GET_CONFIG`. -/
def execGetConfig (s : State) : Host.Outcome State Fault Refusal := .next s.getConfig

/-- `REGISTER_CALLBACK` with `DIR = TX`. -/
def execRegisterCallbackTx (s : State) : Host.Outcome State Fault Refusal :=
  .next (s.registerCallback .tx)

/-- `REGISTER_CALLBACK` with `DIR = RX`. -/
def execRegisterCallbackRx (s : State) : Host.Outcome State Fault Refusal :=
  .next (s.registerCallback .rx)

end Sys2Proof.Machine
end

