-- ==== Sys2Proof/Machine/Dispatch.lean ====
section
/-! DEFINITION. One arm per operation: the meaning each constructor of `Instr` has. -/

namespace Sys2Proof.Machine

def exec (i : Instr) (s : State) : Host.Outcome State Fault Refusal :=
  match i with
  | .configure => Sys2Proof.Machine.execConfigure s
  | .registerCallbackTx => Sys2Proof.Machine.execRegisterCallbackTx s
  | .registerCallbackRx => Sys2Proof.Machine.execRegisterCallbackRx s
  | .send => Sys2Proof.Machine.execSend s
  | .receive => Sys2Proof.Machine.execReceive s
  | .disableTx => Sys2Proof.Machine.execDisableTx s
  | .disableRx => Sys2Proof.Machine.execDisableRx s
  | .disableBoth => Sys2Proof.Machine.execDisableBoth s
  | .getConfig => Sys2Proof.Machine.execGetConfig s
  | .irq r => Sys2Proof.Machine.execIrq r s
  | .dmaDone d st => Sys2Proof.Machine.execDmaDone d st s

end Sys2Proof.Machine
end

