-- ==== Sys2Proof/Machine/Stimulus.lean ====
section
/-! DEFINITION. What the agents of 00_scope.md R7 do to the block between operations: operand registers (10_state.md R20), memory (20_memory.md R59, R60), raw flags (60_exceptions.md R170), suspend (R193), and the register writes and words of each textual operation and pseudo-operation (30_encoding.md R87, R88). -/

namespace Sys2Proof.Machine

/-- What an arriving word does before the operation runs: the host's write of `CMD` (10_state.md R20). The words of the two event ports are no register. -/
def State.latchArrival (s : State) : Arrival → State
  | .cmd w => { s with cmd := w }
  | .evtIrq _ => s
  | .evtDma _ => s

/-- The host writes `x[i]`, `i` in 0..2 (10_state.md R20: "the host writes them before it issues a command"). -/
def State.writeOperand (s : State) (i : Fin 3) (v : Word) : State :=
  match i with
  | 0 => { s with x0 := v }
  | 1 => { s with x1 := v }
  | 2 => { s with x2 := v }

/-- A byte stored to memory by another agent, at the address the block knows it by and never denied (20_memory.md R65 leaves it open; log 30, DESIGN CHOICE). -/
def State.storeByte (s : State) (a : Word) (v : Byte) : State := { s with mem := s.mem.store a.toNat v }

/-- A host store: a race on a buffer borrowed for either direction (20_memory.md R59 item 2, R60). -/
def hostStore (a : Word) (v : Byte) (s : State) : Host.Outcome State Fault Refusal :=
  if s.borrowed .tx a || s.borrowed .rx a then .fault .bufferRace else .next (s.storeByte a v)

/-- A host load: a race on a buffer borrowed for receive (20_memory.md R59 item 2); it changes nothing. -/
def hostLoad (a : Word) (s : State) : Host.Outcome State Fault Refusal :=
  if s.borrowed .rx a then .fault .bufferRace else .next s

/-- A DMA engine store: inside the buffer of an in-flight DMA receive (43_dma.md R126 item 5); the contract excludes any other. -/
def engineStore (a : Word) (v : Byte) (s : State) : Host.Outcome State Fault Refusal :=
  if s.params.dma .rx && s.borrowed .rx a then .next (s.storeByte a v) else .refused .engineContract

/-- The serial interface drives these raw flags from now on (60_exceptions.md R170). -/
def State.driveRaw (s : State) (r : BitVec 4) : State := { s with raw := rawOfWord r }

/-- A suspend (60_exceptions.md R193): the control elements of 10_state.md R29 become unspecified and nothing else changes; with a transfer in flight the spec refuses it (93 U18). -/
def suspend (s : State) : Host.Outcome State Fault Refusal :=
  if s.inFlight .tx || s.inFlight .rx then .refused .suspendInFlight
  else .next { s with ctl := Config.suspendCtl s.draws, draws := s.draws + 1 }

/-! ### The operations as text (30_encoding.md R87): the register writes, then the word -/

/-- `configure <rate>, <depth>, <channels>`. -/
def textConfigure (rate depth channels : Word) : List Stimulus :=
  [.operand 0 rate, .operand 1 depth, .operand 2 channels, .arrive (encode .configure)]

/-- `register_callback tx, <handle>` and `register_callback rx, <handle>`. -/
def textRegisterCallback (d : Dir) (handle : Word) : List Stimulus :=
  [.operand 0 handle,
    .arrive (encode (match d with
      | .tx => .registerCallbackTx
      | .rx => .registerCallbackRx))]

/-- `send <addr>, <len>`. -/
def textSend (addr len : Word) : List Stimulus :=
  [.operand 0 addr, .operand 1 len, .arrive (encode .send)]

/-- `receive <addr>, <len>`. -/
def textReceive (addr len : Word) : List Stimulus :=
  [.operand 0 addr, .operand 1 len, .arrive (encode .receive)]

/-- An operation with no operand register: `disable tx`, `get_config`, `irq <flags>`, `dma_done tx, <st>`, … -/
def textPlain (i : Instr) : List Stimulus := [.arrive (encode i)]

/-- The three values a `GET_CONFIG` returned, read in the state it left (R73). -/
def State.returnedConfig (s : State) : DeviceConfig where
  sampleRate := s.x3
  bitDepth := s.x4
  channelCount := s.x5

/-- The three values last returned by `get_config`, from the operations done so far and the state each left, the newest first. A later `TransportError`, which overwrites `x[3]` (R73), does not change them (log 29). -/
def lastReturned : List (Instr × State) → Option DeviceConfig
  | [] => none
  | (i, s) :: earlier => if i = .getConfig then some s.returnedConfig else lastReturned earlier

/-- `resume` (R88): `configure` with the three values last returned by `get_config`; none before the first `get_config`, when there are no such values. -/
def pseudoResume (done : List (Instr × State)) : Option (List Stimulus) :=
  (lastReturned done).map fun c => textConfigure c.sampleRate c.bitDepth c.channelCount

/-- `disable tx`, `disable rx`, `disable both`. -/
def textDisable (d : DirSel) : List Stimulus :=
  textPlain (match d with
    | .tx => .disableTx
    | .rx => .disableRx
    | .both => .disableBoth)

/-- `init <rate>, <depth>, <channels>` (30_encoding.md R88). -/
def pseudoInit (rate depth channels : Word) : List Stimulus :=
  textDisable .both ++ textConfigure rate depth channels

/-- `cancel <dir>` (R88): `disable <dir>`, for each `<dir>` that `disable` takes. -/
def pseudoCancel (d : DirSel) : List Stimulus := textDisable d

end Sys2Proof.Machine
end

