-- ==== Sys2Proof/Machine/Step.lean ====
section
/-! DEFINITION. One step of the machine: the next stimulus acts (10_state.md R22: "It executes one operation per stimulus"), an operation as one atomic step (00_scope.md R14). -/

namespace Sys2Proof.Machine

/-- The state in which an arriving operation runs: the stimulus taken off the list, `CMD` latched. -/
def State.accept (s : State) (rest : List Stimulus) (a : Arrival) : State :=
  { s with pending := rest }.latchArrival a

/-- An arriving word: the operation it selects, or the illegal-command result (30_encoding.md R80). -/
def runArrival (a : Arrival) (s : State) : Host.Outcome State Fault Refusal :=
  match decode a with
  | .ok i => exec i s
  | .error _ => .next s.illegalCommand

/-- One step. With no stimulus to come the block waits: "the block is passive until its first stimulus" (70_reset_and_hazards.md R201). -/
def step (s : State) : Host.Outcome State Fault Refusal :=
  match s.pending with
  | [] => .next s
  | .arrive a :: rest => runArrival a (s.accept rest a)
  | .operand i v :: rest => .next ({ s with pending := rest }.writeOperand i v)
  | .hostStore a v :: rest => hostStore a v { s with pending := rest }
  | .hostLoad a :: rest => hostLoad a { s with pending := rest }
  | .engineStore a v :: rest => engineStore a v { s with pending := rest }
  | .rawFlags r :: rest => .next ({ s with pending := rest }.driveRaw r)
  | .suspend :: rest => suspend { s with pending := rest }
  | .powerOn :: rest => .next { s with pending := rest }.powerOnReset

/-- The state with a table row's word arriving next on its port, before everything else pending (log 7). -/
def State.withFetchWord (s : State) (nbits w : Nat) : State :=
  { s with pending := .arrive (tableArrival nbits w) :: s.pending }

end Sys2Proof.Machine
end

