-- ==== Sys2Proof/Safety.lean ====
section
/-! DEFINITION. What counts as a safe state, in the terms the statements use: the invariants of 10_state.md R23 to R27 and 20_memory.md R58, each under the conditions its rule names. -/

namespace Sys2Proof.Machine

/-- The configuration a valid `cfg_valid` vouches for (10_state.md R23, R25; 40_clock_divisor.md R91 to R94). -/
structure ConfigCoherent (s : State) : Prop where
  depthLegal : s.cfg.bitDepth = 16#32 ∨ s.cfg.bitDepth = 24#32 ∨ s.cfg.bitDepth = 32#32
  channelsLegal : s.cfg.channelCount = 1#32 ∨ s.cfg.channelCount = 2#32
  divisorLegal : 2 ≤ s.clkDiv.toNat ∧ s.clkDiv.toNat ≤ 1023
  divisorIs : s.clkDiv.toNat = s.params.clockSourceHz / (2 * s.cfg.bitDepth.toNat * s.cfg.sampleRate.toNat)
  achievedIs : s.achievedBclk = BitVec.ofNat 32 (s.params.clockSourceHz / s.clkDiv.toNat)
  warnIs : s.clkWarn = true ↔ s.params.clockSourceHz / s.clkDiv.toNat ≠ 2 * s.cfg.bitDepth.toNat * s.cfg.sampleRate.toNat
  wssIs : wssLookup s.params s.cfg.bitDepth = some s.wss
  clockOn : s.clkEn = true

/-- In DMA mode the pump's fields are never written: they are 0 (10_state.md R27 item 8). -/
def DmaQuiet (s : State) : Prop :=
  ∀ d, s.params.dma d = true →
    (s.ch.get d).samples = 0#32 ∧ (s.ch.get d).count = 0#32 ∧ (s.ch.get d).index = 0#32 ∧ (s.ch.get d).overrun = false

/-- A transfer in flight has its channel running (10_state.md R27 item 3). -/
def InFlightRuns (s : State) : Prop :=
  ∀ d, (s.ch.get d).buffer ≠ null → (s.ch.get d).running = true

/-- What every step keeps: canonical memory, a coherent configuration behind `cfg_valid`, quiet pump fields in DMA mode, running channels under transfers in flight. -/
structure CoreInvariant (s : State) : Prop where
  memoryCanonical : s.mem.wf = true
  configCoherent : s.cfgValid = true → ConfigCoherent s
  dmaQuiet : DmaQuiet s
  inFlightRuns : InFlightRuns s

/-- Who may hold an interrupt enable once the enables have been masked (10_state.md R27 item 5, 45_dispatch.md R151, 70_reset_and_hazards.md R212 (b)): the FIFO interrupt only a pump-mode transfer in flight, the overrun interrupt only a running channel. -/
def EnablesOwned (s : State) : Prop :=
  ∀ d, ((s.ctl.get d).fifoIe = true → s.params.dma d = false ∧ (s.ch.get d).buffer ≠ null) ∧
    ((s.ctl.get d).ovrIe = true → (s.ch.get d).running = true)

/-- A running channel has its hardware channel and block on (10_state.md R27 item 4). -/
def RunningEnabled (s : State) : Prop :=
  ∀ d, (s.ch.get d).running = true → (s.ctl.get d).chanEn = true ∧ (s.ctl.get d).blkEn = true

/-- How the buffer cursor follows the progress counter in each layout (44_pump.md R133 to R139). -/
def cursorFollows (l : FrameLayout) (index count : Nat) : Prop :=
  match l with
  | .mono => index = count
  | .interleaved => index = count
  | .split => 2 * index = count

/-- A pump-mode transfer armed under the configuration still stored (10_state.md R27 items 2 and 6, 20_memory.md R58). -/
structure TransferCoherent (s : State) (d : Dir) : Prop where
  lengthIs : (s.ch.get d).samples.toNat * s.bps = (s.ch.get d).blockBytes.toNat
  progressBounded : (s.ch.get d).count.toNat ≤ (s.ch.get d).samples.toNat
  samplesWhole : (s.ch.get d).samples.toNat % s.nch = 0
  progressWhole : (s.ch.get d).count.toNat % s.nch = 0
  cursorIs : cursorFollows s.frameLayout (s.ch.get d).index.toNat (s.ch.get d).count.toNat

/-- Every pump-mode transfer in flight was armed under the configuration still stored, and that configuration is a legal one. -/
def TransfersCoherent (s : State) : Prop :=
  ∀ d, s.params.dma d = false → (s.ch.get d).buffer ≠ null →
    s.cfgValid = true ∧ TransferCoherent s d

/-! ### Frames of an activation (44_pump.md R133 to R141) -/

/-- The frames of a direction's transfer that have not moved yet (44_pump.md R141: `remaining`). -/
def State.framesLeft (s : State) (d : Dir) : Nat :=
  ((s.ch.get d).samples.toNat - (s.ch.get d).count.toNat) / s.nch

/-- The frames one pump invocation moves (44_pump.md R141). -/
def State.framesMoved (s : State) (d : Dir) : Nat := min (s.params.trig d) (s.framesLeft d)

/-- The sample indexes of the frame `k` places after the cursor: the left one, then the right one where the layout has one (R133 to R139). -/
def State.frameIndexes (s : State) (d : Dir) (k : Nat) : List Nat :=
  match s.frameLayout with
  | .mono => [(s.ch.get d).index.toNat + k]
  | .interleaved => [(s.ch.get d).index.toNat + 2 * k, (s.ch.get d).index.toNat + 2 * k + 1]
  | .split =>
    [(s.ch.get d).index.toNat + k, (s.ch.get d).index.toNat + k + (s.ch.get d).samples.toNat / 2]

/-- The transmit event of the frame `k` places after the cursor: a mono sample goes to both halves (R133), a stereo frame's two samples to one half each (R134, R135). -/
def State.txFrameEvent (s : State) (k : Nat) : Event :=
  match s.frameIndexes .tx k with
  | [l, r] => .txw (s.rd .tx l) (s.rd .tx r)
  | l :: _ => .txw (s.rd .tx l) (s.rd .tx l)
  | [] => .txw 0 0

/-- The entry the receive FIFO delivers `k` entries from now: a queued one, then free values. -/
def State.rxEntryAt (s : State) (k : Nat) : Nat × Nat :=
  match s.rxEntries[k]? with
  | some e => e
  | none => Config.rxEntry (s.draws + (k - s.rxEntries.length))

/-- The two values of that entry as the sample port carries them. -/
def State.rxValuesAt (s : State) (k : Nat) : List Nat :=
  [s.portValue (s.rxEntryAt k).1, s.portValue (s.rxEntryAt k).2]

/-- The receive event of the frame `k` places after the cursor. -/
def State.rxFrameEvent (s : State) (k : Nat) : Event :=
  .rxr (s.portValue (s.rxEntryAt k).1) (s.portValue (s.rxEntryAt k).2)

/-- Byte `a` belongs to a sample that one of the next `n` receive frames stores: the address is computed by `sampleAddr`, as FRAME_RX computes it. -/
def State.rxStoresTo (s : State) (n a : Nat) : Prop :=
  ∃ k < n, ∃ i ∈ s.frameIndexes .rx k, ∃ b < s.bps, a = (s.sampleAddr .rx i + b) % addrSpace

/-- The event is a callback of direction `d`. -/
def Event.isCbOf (d : Dir) : Event → Bool
  | .cb e _ _ _ => decide (e = d)
  | _ => false

/-- The event concerns direction `d` (10_state.md R38): a FIFO entry, a pulse, a callback, a request or a cache action of that direction, or a diagnostic about it. -/
def Event.isOf (d : Dir) : Event → Bool
  | .txw _ _ => decide (d = .tx)
  | .rxr _ _ => decide (d = .rx)
  | .fifoClr e => decide (e = d)
  | .ovrClr e => decide (e = d)
  | .cb e _ _ _ => decide (e = d)
  | .log (.warnClkInexact _ _) => false
  | .log (.errDmaOverrun e) => decide (e = d)
  | .log (.errDmaStatus e _) => decide (e = d)
  | .log (.errDmaStop e _) => decide (e = d)
  | .dmaCfg e _ _ => decide (e = d)
  | .dmaStart e _ => decide (e = d)
  | .dmaStop e _ => decide (e = d)
  | .cacheClean _ _ => decide (d = .tx)
  | .cacheInv _ _ => decide (d = .rx)
  | .result _ => false

/-- The event ends a command. -/
def Event.isResult : Event → Bool
  | .result _ => true
  | _ => false

/-! ### The DMA engine's answers (43_dma.md R126, log 5) -/

/-- The status the engine answers `k` requests from now: a queued one, then free values. -/
def State.dmaAnswerAt (s : State) (k : Nat) : Word :=
  match s.dmaAnswers[k]? with
  | some st => st
  | none => Config.dmaStatus (s.draws + (k - s.dmaAnswers.length))

/-- The descriptor of a transfer armed with the operands `x[0]` and `x[1]` (43_dma.md R122), field by field. -/
def State.armDescriptor (s : State) : Dir → Descriptor
  | .tx =>
    { src := s.x0, dst := s.params.spec.periphTxAddr, direction := .memToPeriph, length := s.x1
      burst := Config.burst s.params.spec.trigTx, context := .tx }
  | .rx =>
    { src := s.params.spec.periphRxAddr, dst := s.x0, direction := .periphToMem, length := s.x1
      burst := Config.burst s.params.spec.trigRx, context := .rx }

/-- The cache action before the engine is asked: a transmit cleans its source buffer, a receive skips it (43_dma.md R120 line 1). -/
def State.armCleanEvents (s : State) : Dir → List Event
  | .tx => [.cacheClean s.x0 s.x1]
  | .rx => []

/-- The events of a stop request that gets answer number `k` (46_disable.md R160 line 1); none in pump mode. -/
def State.stopEventsAt (s : State) (d : Dir) (k : Nat) : List Event :=
  if s.params.dma d then
    .dmaStop d (s.dmaAnswerAt k) ::
      (if s.dmaAnswerAt k ≠ 0#32 then [.log (.errDmaStop d (s.dmaAnswerAt k))] else [])
  else []

/-- `k` activations with the same raw word, one after the other; none when one of them does not answer a next state. -/
def irqTimes (r : BitVec 4) : Nat → State → Option State
  | 0, s => some s
  | k + 1, s =>
    match exec (.irq r) s with
    | .next t => irqTimes r k t
    | .fault _ => none
    | .refused _ => none

/-! ### Operations by name -/

/-- The operation is a host command (00_scope.md R8), not an event. -/
def isCommand : Instr → Bool
  | .configure => true
  | .registerCallbackTx => true
  | .registerCallbackRx => true
  | .send => true
  | .receive => true
  | .disableTx => true
  | .disableRx => true
  | .disableBoth => true
  | .getConfig => true
  | .irq _ => false
  | .dmaDone _ _ => false

/-- The command that arms direction `d`. -/
def armInstr : Dir → Instr
  | .tx => .send
  | .rx => .receive

/-- The command that registers the callback of direction `d`. -/
def registerInstr : Dir → Instr
  | .tx => .registerCallbackTx
  | .rx => .registerCallbackRx

/-- The command that disables direction `d` alone. -/
def disableInstr : Dir → Instr
  | .tx => .disableTx
  | .rx => .disableRx

/-- The opposite direction. -/
def otherDir : Dir → Dir
  | .tx => .rx
  | .rx => .tx

/-- The operation is a `DISABLE` that selects direction `d` (46_disable.md R161). -/
def disablesDir (i : Instr) : Dir → Bool
  | .tx => decide (i = .disableTx) || decide (i = .disableBoth)
  | .rx => decide (i = .disableRx) || decide (i = .disableBoth)

/-- The `CMD` words 30_encoding.md R80 calls illegal, in its own terms: `OP = w[3:0]`, `DIR = w[5:4]`, `RSV = w[31:6]`. -/
def IllegalWord (w : BitVec 32) : Prop :=
  let op := w.toNat % 16
  let dir := w.toNat / 16 % 4
  let rsv := w.toNat / 64
  op = 0 ∨ 7 ≤ op ∨ rsv ≠ 0 ∨ ((op = 1 ∨ op = 3 ∨ op = 4 ∨ op = 6) ∧ dir ≠ 0) ∨
    (op = 2 ∧ (dir = 0 ∨ dir = 3)) ∨ (op = 5 ∧ dir = 0)

end Sys2Proof.Machine
end

