-- ==== Sys2Proof/Certificates/Slice0/Obligations.lean ====
section
/-! DEFINITION. The statements for the provers, from the numbered rules of spec/. In a full record `{ s with … }` every field not named is unchanged: that is the frame of the operation, memory and trace prefix included. -/

section

open Sys2Proof Sys2Proof.Machine

/-! ### Encoding -/

/-- 30_encoding.md R74, R75: decoding and encoding are inverse on every well-formed instruction and every word of every port. -/
def Obligations.DecodeEncodeAgree : Prop :=
  (∀ i : Instr, i.wf = true → decode (encode i) = .ok i) ∧
  (∀ (a : Arrival) (i : Instr), decode a = .ok i → i.wf = true ∧ encode i = a)

/-- 30_encoding.md R74: the nine command words, and no other, select an operation. -/
def Obligations.CommandWords : Prop :=
  ∀ (w : BitVec 32) (i : Instr), decode (.cmd w) = .ok i ↔
    (w, i) ∈ [(0x00000001#32, Instr.configure), (0x00000012#32, .registerCallbackTx),
      (0x00000022#32, .registerCallbackRx), (0x00000003#32, .send), (0x00000004#32, .receive),
      (0x00000015#32, .disableTx), (0x00000025#32, .disableRx), (0x00000035#32, .disableBoth),
      (0x00000006#32, .getConfig)]

/-- 30_encoding.md R80: of the block's state an illegal word changes `RES` alone and emits its result; every other word selects a command. That `CMD` keeps the illegal word, by the host's own write (10_state.md R20), is the model's deduction (log 23); the list of stimuli is the model's (log 6). -/
def Obligations.IllegalCommandWords : Prop :=
  ∀ (w : BitVec 32) (s : State) (rest : List Stimulus), s.pending = .arrive (.cmd w) :: rest →
    (IllegalWord w →
      step s = .next { s with
        pending := rest, cmd := w, res := 0x0000000F#32
        trace := s.trace ++ [.result .illegalCommand] }) ∧
    (¬ IllegalWord w → ∃ i, isCommand i = true ∧ decode (.cmd w) = .ok i)

/-- 30_encoding.md R75: the fields of the two event words; all values are legal. -/
def Obligations.EventWords : Prop :=
  (∀ r : BitVec 4, decode (.evtIrq r) = .ok (.irq r) ∧
    rawOfWord r = { tx := { rdy := r.getLsbD 0, ovr := r.getLsbD 1 }
                    rx := { rdy := r.getLsbD 2, ovr := r.getLsbD 3 } }) ∧
  (∀ w : BitVec 33, decode (.evtDma w) =
    .ok (.dmaDone (if w.getLsbD 32 = true then .rx else .tx) (w.setWidth 32)))

/-- 30_encoding.md R74, R75, R80: a few words, written out. -/
def Obligations.SampleWordsDecode : Prop :=
  decodeTableWord 32 0x00000001 = some .configure ∧
  decodeTableWord 32 0x00000022 = some .registerCallbackRx ∧
  decodeTableWord 32 0x00000003 = some .send ∧
  decodeTableWord 32 0x00000035 = some .disableBoth ∧
  decodeTableWord 8 0x5 = some (.irq 0b0101#4) ∧
  decodeTableWord 40 0x100000007 = some (.dmaDone .rx 7#32) ∧
  decodeTableWord 32 0x00000032 = none ∧
  decodeTableWord 32 0x00000041 = none

/-! ### Steps -/

/-- 10_state.md R20, R22: a step with an arriving word runs the operation the word decodes to; a host's word is latched in `CMD` first. -/
def Obligations.StepRunsDecodedInstruction : Prop :=
  ∀ (s : State) (rest : List Stimulus) (i : Instr), i.wf = true →
    (∀ w, s.pending = .arrive (.cmd w) :: rest → decode (.cmd w) = .ok i →
      step s = exec i { s with pending := rest, cmd := w }) ∧
    (∀ r, s.pending = .arrive (.evtIrq r) :: rest → decode (.evtIrq r) = .ok i →
      step s = exec i { s with pending := rest }) ∧
    (∀ w, s.pending = .arrive (.evtDma w) :: rest → decode (.evtDma w) = .ok i →
      step s = exec i { s with pending := rest })

/-- 10_state.md R20, R30, 70_reset_and_hazards.md R201: with no stimulus the block is passive; the host writes an operand register; the serial interface drives its raw flags. -/
def Obligations.EnvironmentSteps : Prop :=
  ∀ (s : State) (rest : List Stimulus),
    (s.pending = [] → step s = .next s) ∧
    (∀ v, s.pending = .operand 0 v :: rest → step s = .next { s with pending := rest, x0 := v }) ∧
    (∀ v, s.pending = .operand 1 v :: rest → step s = .next { s with pending := rest, x1 := v }) ∧
    (∀ v, s.pending = .operand 2 v :: rest → step s = .next { s with pending := rest, x2 := v }) ∧
    (∀ r, s.pending = .rawFlags r :: rest →
      step s = .next { s with
        pending := rest
        raw := { tx := { rdy := r.getLsbD 0, ovr := r.getLsbD 1 }
                 rx := { rdy := r.getLsbD 2, ovr := r.getLsbD 3 } } })

/-- 20_memory.md R59, R60, 93 U12 (log 15): a host access to a borrowed buffer is a race, every other one is performed on the one byte it names. 43_dma.md R126 item 5 (log 16): the DMA engine stores into the buffer of an in-flight DMA receive and nowhere else. One flat memory without a cache, translation or protection is the model's choice (logs 27 and 30). -/
def Obligations.MemoryAgents : Prop :=
  ∀ (s : State) (rest : List Stimulus) (a : Word) (v : Byte),
    (s.pending = .hostStore a v :: rest →
      (s.borrowed .tx a = true ∨ s.borrowed .rx a = true → step s = .fault .bufferRace) ∧
      (s.borrowed .tx a = false → s.borrowed .rx a = false → s.mem.wf = true →
        ∃ t, step s = .next t ∧ t = { s with pending := rest, mem := t.mem } ∧
          ∀ c : Word, t.mem.read c.toNat = if c = a then v else s.mem.read c.toNat)) ∧
    (s.pending = .hostLoad a :: rest →
      (s.borrowed .rx a = true → step s = .fault .bufferRace) ∧
      (s.borrowed .rx a = false → step s = .next { s with pending := rest })) ∧
    (s.pending = .engineStore a v :: rest →
      (s.params.dma .rx = true → s.borrowed .rx a = true → s.mem.wf = true →
        ∃ t, step s = .next t ∧ t = { s with pending := rest, mem := t.mem } ∧
          ∀ c : Word, t.mem.read c.toNat = if c = a then v else s.mem.read c.toNat) ∧
      (s.params.dma .rx = false ∨ s.borrowed .rx a = false → step s = .refused .engineContract))

/-- 60_exceptions.md R193, 93 U18 (log 17): a suspend makes the peripheral control elements one draw and changes nothing else; with a transfer in flight it is refused. -/
def Obligations.SuspendDrawsControls : Prop :=
  ∀ (s : State) (rest : List Stimulus), s.pending = .suspend :: rest →
    (s.ch.tx.buffer = null → s.ch.rx.buffer = null →
      step s = .next { s with
        pending := rest, ctl := Config.suspendCtl s.draws, draws := s.draws + 1 }) ∧
    (s.ch.tx.buffer ≠ null ∨ s.ch.rx.buffer ≠ null → step s = .refused .suspendInFlight)

/-- 70_reset_and_hazards.md R200 with the table of 10_state.md R40: a power-on reset, element by element; the unspecified ones are one draw (log 3). That the parameters, memory, raw flags and queued inputs survive is the model's choice (log 18). -/
def Obligations.PowerOnReset : Prop :=
  ∀ (s : State) (rest : List Stimulus) (p : PowerOnDraw), s.pending = .powerOn :: rest →
    p = Config.powerOn s.draws →
    step s = .next { s with
      pending := rest
      x0 := p.x0, x1 := p.x1, x2 := p.x2, x3 := p.x3, x4 := p.x4, x5 := p.x5, cmd := p.cmd, res := p.res
      cfg := p.cfg, cfgValid := false
      clkDiv := p.clkDiv, wss := p.wss, clkEn := p.clkEn, achievedBclk := p.achievedBclk, clkWarn := false
      ch := { tx := { buffer := 0#32, blockBytes := 0#32, samples := 0#32, count := 0#32, index := 0#32
                      running := false, overrun := false }
              rx := { buffer := 0#32, blockBytes := 0#32, samples := 0#32, count := 0#32, index := 0#32
                      running := false, overrun := false } }
      cb := { tx := 0#32, rx := 0#32 }
      ctl := p.ctl
      trace := []
      draws := s.draws + 1 }

/-- 70_reset_and_hazards.md R201: what else holds right after reset. -/
def Obligations.ResetIsPassive : Prop :=
  State.reset.phase .tx = .idle ∧ State.reset.phase .rx = .idle ∧ State.reset.trace = [] ∧
  State.reset.cfgValid = false ∧ State.reset.clkWarn = false ∧ State.reset.cb = { tx := 0#32, rx := 0#32 } ∧
  step State.reset = .next State.reset

/-! ### Invariants of every step -/

/-- The invariant of `StepKeepsCoreInvariant` holds at reset. -/
def Obligations.ResetMeetsInvariants : Prop :=
  CoreInvariant State.reset ∧ TransfersCoherent State.reset ∧ RunningEnabled State.reset

/-- 10_state.md R23, R25, R27 items 3 and 8: every step keeps canonical memory, a coherent configuration behind `cfg_valid`, quiet pump fields in DMA mode, and running channels under transfers in flight. -/
def Obligations.StepKeepsCoreInvariant : Prop :=
  ∀ s t : State, CoreInvariant s → step s = .next t → CoreInvariant t

/-- 10_state.md R27 items 2 and 6, 20_memory.md R58: a pump-mode transfer stays coherent with the stored configuration through every operation, unless a `CONFIGURE` executes while one is in flight. -/
def Obligations.TransfersStayCoherent : Prop :=
  ∀ (i : Instr) (s t : State), CoreInvariant s → TransfersCoherent s →
    (i = .configure → s.ch.tx.buffer = null ∧ s.ch.rx.buffer = null) →
    exec i s = .next t → TransfersCoherent t

/-- 10_state.md R27 item 5, 70_reset_and_hazards.md R212 (b): a `CONFIGURE` past its argument checks establishes the owners of the interrupt enables, and every operation keeps them. -/
def Obligations.EnablesStayOwned : Prop :=
  (∀ s : State, (s.x1 = 16#32 ∨ s.x1 = 24#32 ∨ s.x1 = 32#32) → (s.x2 = 1#32 ∨ s.x2 = 2#32) →
    ∃ t, exec .configure s = .next t ∧ EnablesOwned t) ∧
  (∀ (i : Instr) (s t : State), EnablesOwned s → exec i s = .next t → EnablesOwned t)

/-- 10_state.md R27 item 4: a running channel keeps its hardware channel and block enabled through every operation but `CONFIGURE`. -/
def Obligations.RunningStaysEnabled : Prop :=
  ∀ (i : Instr) (s t : State), i ≠ .configure → RunningEnabled s → exec i s = .next t → RunningEnabled t

/-- 00_scope.md R10, 70_reset_and_hazards.md R203 item 1, 10_state.md R27 item 7: every instance has legal parameters, and no step changes them. -/
def Obligations.ParametersLegalAndFixed : Prop :=
  (∀ p : Params, 0 < p.clockSourceHz ∧ 1 ≤ p.trig .tx ∧ 1 ≤ p.trig .rx ∧
    ¬ (p.spec.layout = .split ∧ (p.dma .tx = true ∨ p.dma .rx = true))) ∧
  (∀ s t : State, step s = .next t → t.params = s.params)

/-! ### Clock/Divisor Calculator -/

/-- 40_clock_divisor.md R91, R92, R93, R94, R96: when the calculator succeeds, and with what. -/
def Obligations.CalculatorResult : Prop :=
  (∀ (p : Params) (depth rate : Word) (w : Nat) (c : ClkOut), clockCalc p depth rate = some (w, c) ↔
    ((depth = 16#32 ∧ w = p.spec.wss16) ∨ (depth = 24#32 ∧ w = p.spec.wss24) ∨
      (depth = 32#32 ∧ w = p.spec.wss32)) ∧
    rate ≠ 0#32 ∧
    c.bclk = 2 * depth.toNat * rate.toNat ∧
    c.divisor = p.clockSourceHz / c.bclk ∧ 2 ≤ c.divisor ∧ c.divisor ≤ 1023 ∧
    c.achieved = p.clockSourceHz / c.divisor ∧
    (c.warn = true ↔ c.achieved ≠ c.bclk)) ∧
  (∀ hz bclk : Nat, 0 < bclk →
    (2 ≤ hz / bclk ∧ hz / bclk ≤ 1023 ↔ 2 * bclk ≤ hz ∧ hz < 1024 * bclk)) ∧
  (∀ (p : Params) (depth rate : Word) (c : ClkOut), clkDivOf p depth rate = some c →
    p.clockSourceHz % c.bclk = 0 → c.warn = false) ∧
  (clkOutFor 100 33).divisor = 3 ∧ (clkOutFor 100 33).achieved = 33 ∧ (clkOutFor 100 33).warn = false

/-- 40_clock_divisor.md R98: the laws of the calculator. -/
def Obligations.CalculatorLaws : Prop :=
  (∀ (p : Params) (depth rate rate' : Word) (c c' : ClkOut), rate ≤ rate' →
    clkDivOf p depth rate = some c → clkDivOf p depth rate' = some c' → c'.divisor ≤ c.divisor) ∧
  (∀ (p : Params) (depth rate : Word), (depth = 16#32 ∨ depth = 24#32 ∨ depth = 32#32) →
    ((clockCalc p depth rate).isSome = true ↔
      p.clockSourceHz < 1024 * (2 * depth.toNat * rate.toNat) ∧
      2 * (2 * depth.toNat * rate.toNat) ≤ p.clockSourceHz)) ∧
  (∀ (p : Params) (depth rate : Word) (c : ClkOut), clkDivOf p depth rate = some c → c.bclk ≤ c.achieved) ∧
  (∀ (p : Params) (depth rate depth' rate' : Word), depth = depth' → rate = rate' →
    clockCalc p depth rate = clockCalc p depth' rate')

/-! ### CONFIGURE -/

/-- 41_configure.md R102, R104, R105, R106: a successful `CONFIGURE`, every effect and nothing else; the interrupt line is low afterwards. `achieved_bclk` is a register of the width of 10_state.md R35 (log 14). That FIFO_CLR leaves the queued receive entries and the raw flags is the model's choice (log 31). -/
def Obligations.ConfigureSucceeds : Prop :=
  ∀ (s t : State) (bclk divisor achieved : Nat),
    (s.x1 = 16#32 ∨ s.x1 = 24#32 ∨ s.x1 = 32#32) → (s.x2 = 1#32 ∨ s.x2 = 2#32) → s.x0 ≠ 0#32 →
    bclk = 2 * s.x1.toNat * s.x0.toNat → divisor = s.params.clockSourceHz / bclk →
    2 ≤ divisor → divisor ≤ 1023 → achieved = s.params.clockSourceHz / divisor →
    t = { s with
      ctl := { tx := { s.ctl.tx with
                 chanEn := false, fifoIe := false, ovrIe := false, wlen := s.x1.setWidth 6 }
               rx := { s.ctl.rx with
                 chanEn := false, fifoIe := false, ovrIe := false, wlen := s.x1.setWidth 6 } }
      clkDiv := BitVec.ofNat 10 divisor
      wss := if s.x1 = 16#32 then s.params.spec.wss16
        else if s.x1 = 24#32 then s.params.spec.wss24 else s.params.spec.wss32
      clkEn := true
      cfg := { sampleRate := s.x0, bitDepth := s.x1, channelCount := s.x2 }
      cfgValid := true
      achievedBclk := BitVec.ofNat 32 achieved
      clkWarn := decide (achieved ≠ bclk)
      res := 0#32
      trace := s.trace ++ [.fifoClr .tx, .fifoClr .rx] ++
        (if achieved ≠ bclk then [.log (.warnClkInexact bclk achieved)] else []) ++ [.result .ok] } →
    exec .configure s = .next t ∧ ∀ raw, t.irqLineFor raw = false

/-- 41_configure.md R101: an illegal bit depth or channel count leaves everything but `RES` as it was. -/
def Obligations.ConfigureRejectsArguments : Prop :=
  ∀ s : State,
    ((s.x1 ≠ 16#32 ∧ s.x1 ≠ 24#32 ∧ s.x1 ≠ 32#32) ∨ (s.x2 ≠ 1#32 ∧ s.x2 ≠ 2#32)) →
    exec .configure s = .next { s with res := 1#32, trace := s.trace ++ [.result .invalidConfig] }

/-- 41_configure.md R103, 93 U1: a divisor failure after the quiesce. The rule draws `cfg`; the free value and the counter of draws that give the draw are the model's form (log 20, log 5). -/
def Obligations.ConfigureDivisorFailure : Prop :=
  ∀ (s : State) (divisor : Nat),
    (s.x1 = 16#32 ∨ s.x1 = 24#32 ∨ s.x1 = 32#32) → (s.x2 = 1#32 ∨ s.x2 = 2#32) →
    divisor = s.params.clockSourceHz / (2 * s.x1.toNat * s.x0.toNat) →
    s.x0 = 0#32 ∨ divisor < 2 ∨ 1023 < divisor →
    exec .configure s = .next { s with
      ctl := { tx := { s.ctl.tx with chanEn := false, fifoIe := false, ovrIe := false }
               rx := { s.ctl.rx with chanEn := false, fifoIe := false, ovrIe := false } }
      cfgValid := false
      cfg := Config.cfgDraw s.draws
      draws := s.draws + 1
      res := 1#32
      trace := s.trace ++ [.result .invalidConfig] }

/-- 41_configure.md R107: a second successful `CONFIGURE` with the same operands emits the same events and leaves the same state. -/
def Obligations.ConfigureIdempotent : Prop :=
  ∀ (s t : State) (new : List Event), exec .configure s = .next t → t.res = 0#32 → t.trace = s.trace ++ new →
    exec .configure t = .next { t with trace := t.trace ++ new }

/-- 41_configure.md R109, 47_query.md R165: after a successful `CONFIGURE`, `GET_CONFIG` returns exactly the values passed in. -/
def Obligations.ConfigureThenGetConfig : Prop :=
  ∀ s : State, (s.x1 = 16#32 ∨ s.x1 = 24#32 ∨ s.x1 = 32#32) → (s.x2 = 1#32 ∨ s.x2 = 2#32) → s.x0 ≠ 0#32 →
    2 ≤ s.params.clockSourceHz / (2 * s.x1.toNat * s.x0.toNat) →
    s.params.clockSourceHz / (2 * s.x1.toNat * s.x0.toNat) ≤ 1023 →
    ∃ t u, exec .configure s = .next t ∧ exec .getConfig t = .next u ∧ t.res = 0#32 ∧ u.res = 0#32 ∧
      u.x3 = s.x0 ∧ u.x4 = s.x1 ∧ u.x5 = s.x2

/-- 60_exceptions.md R193, 30_encoding.md R88: `CONFIGURE` with the stored values, as a resume issues it, succeeds and restores the same configuration and clock. -/
def Obligations.ResumeRestoresConfiguration : Prop :=
  ∀ s : State, CoreInvariant s → s.cfgValid = true →
    ∃ t, exec .configure { s with
        x0 := s.cfg.sampleRate, x1 := s.cfg.bitDepth, x2 := s.cfg.channelCount } = .next t ∧
      t.res = 0#32 ∧ t.cfg = s.cfg ∧ t.cfgValid = true ∧ t.clkDiv = s.clkDiv ∧ t.wss = s.wss ∧
      t.clkEn = true ∧ t.achievedBclk = s.achievedBclk ∧ t.clkWarn = s.clkWarn ∧
      (∀ d, (t.ctl.get d).wlen = s.cfg.bitDepth.setWidth 6 ∧ (t.ctl.get d).chanEn = false ∧
        (t.ctl.get d).fifoIe = false ∧ (t.ctl.get d).ovrIe = false) ∧ t.ch = s.ch ∧ t.cb = s.cb

/-- 70_reset_and_hazards.md R210: `CONFIGURE` on a running channel leaves `running` stale, and the next pump-mode or DMA-mode arm does not enable the hardware channel. -/
def Obligations.ConfigureLeavesRunningStale : Prop :=
  ∀ (s t : State) (d : Dir), exec .configure s = .next t → t.res = 0#32 → (s.ch.get d).running = true →
    (t.ch.get d).running = true ∧ (t.ctl.get d).chanEn = false ∧
    ∀ (b l : Word) (u : State), exec (armInstr d) { t with x0 := b, x1 := l } = .next u →
      (u.ctl.get d).chanEn = false

/-- 70_reset_and_hazards.md R211: a pump-mode transfer in flight when `CONFIGURE` succeeds is stalled: no activation moves or completes it, and an arm is turned away. -/
def Obligations.ConfigureStallsTransfer : Prop :=
  ∀ (s t : State) (d : Dir), exec .configure s = .next t → t.res = 0#32 →
    s.params.spec.statusMasked = true → s.params.dma d = false → (s.ch.get d).buffer ≠ null →
    (∀ (r : BitVec 4) (u : State), exec (.irq r) t = .next u →
      u.ch.get d = s.ch.get d ∧ u.ctl.get d = t.ctl.get d ∧
      ∀ e, e ∈ u.trace.drop t.trace.length → e.isOf d = false) ∧
    (∀ (b l : Word), b ≠ null → l ≠ 0#32 → s.cb.get d ≠ 0#32 →
      exec (armInstr d) { t with x0 := b, x1 := l } =
        .next { t with x0 := b, x1 := l, res := 3#32, trace := t.trace ++ [.result .inProgress] })

/-! ### GET_CONFIG, REGISTER_CALLBACK -/

/-- 47_query.md R165. -/
def Obligations.GetConfigReturnsStored : Prop :=
  ∀ s : State, exec .getConfig s = .next { s with
    x3 := s.cfg.sampleRate, x4 := s.cfg.bitDepth, x5 := s.cfg.channelCount
    res := 0#32, trace := s.trace ++ [.result .ok] }

/-- 47_query.md R166, both directions. -/
def Obligations.RegisterCallbackStores : Prop :=
  ∀ s : State,
    exec .registerCallbackTx s = .next { s with
      cb := { s.cb with tx := s.x0 }, res := 0#32, trace := s.trace ++ [.result .ok] } ∧
    exec .registerCallbackRx s = .next { s with
      cb := { s.cb with rx := s.x0 }, res := 0#32, trace := s.trace ++ [.result .ok] }

/-! ### SEND, RECEIVE -/

/-- 42_arm.md R116, 93 U1, U2 (log 10); 60_exceptions.md R184: the only operations that can stop are `SEND` and `RECEIVE` before a valid configuration or a registered callback. -/
def Obligations.OnlyUnpreparedArmsStop : Prop :=
  (∀ (s : State) (d : Dir), s.cfgValid = false → exec (armInstr d) s = .refused .unconfigured) ∧
  (∀ (s : State) (d : Dir), s.cfgValid = true → s.cb.get d = 0#32 →
    exec (armInstr d) s = .refused .noCallback) ∧
  (∀ (s : State) (i : Instr),
    (∀ d, i = armInstr d → s.cfgValid = true ∧ s.cb.get d ≠ 0#32) → ∃ t, exec i s = .next t)

/-- 42_arm.md R118 with the order of R110: the three rejections of `SEND` (`d = tx`) and `RECEIVE` (`d = rx`); each leaves everything but `RES`. -/
def Obligations.ArmRejections : Prop :=
  ∀ (s : State) (d : Dir), s.cfgValid = true → s.cb.get d ≠ 0#32 →
    (s.x0 = null ∨ s.x1 = 0#32 →
      exec (armInstr d) s = .next { s with res := 2#32, trace := s.trace ++ [.result .invalidArgument] }) ∧
    (s.x0 ≠ null → s.x1 ≠ 0#32 → (s.ch.get d).buffer ≠ null →
      exec (armInstr d) s = .next { s with res := 3#32, trace := s.trace ++ [.result .inProgress] }) ∧
    (s.x0 ≠ null → s.x1 ≠ 0#32 → (s.ch.get d).buffer = null →
      s.x1.toNat % (s.cfg.channelCount.toNat * (s.cfg.bitDepth.toNat / 8)) ≠ 0 →
      exec (armInstr d) s = .next { s with res := 2#32, trace := s.trace ++ [.result .invalidArgument] })

/-- 42_arm.md R112, R113: an accepted pump-mode `SEND` (`d = tx`) or `RECEIVE` (`d = rx`), fresh start and re-arm. -/
def Obligations.PumpArmCompletes : Prop :=
  ∀ (s : State) (d : Dir), s.cfgValid = true → s.cb.get d ≠ 0#32 → s.x0 ≠ null → s.x1 ≠ 0#32 →
    (s.ch.get d).buffer = null →
    s.x1.toNat % (s.cfg.channelCount.toNat * (s.cfg.bitDepth.toNat / 8)) = 0 → s.params.dma d = false →
    exec (armInstr d) s = .next { s with
      ch := s.ch.set d { s.ch.get d with
        buffer := s.x0, blockBytes := s.x1
        samples := BitVec.ofNat 32 (s.x1.toNat / (s.cfg.bitDepth.toNat / 8))
        count := 0#32, index := 0#32, running := true }
      ctl := s.ctl.set d (if (s.ch.get d).running = true
        then { s.ctl.get d with fifoIe := true, ovrIe := true }
        else { s.ctl.get d with chanEn := true, blkEn := true, fifoIe := true, ovrIe := true })
      res := 0#32
      trace := s.trace ++ [.result .ok] }

/-- 43_dma.md R120, R122: an accepted DMA-mode `SEND` or `RECEIVE` whose two requests succeed. The queue of the engine's answers and the counter of draws are the model's (log 5). -/
def Obligations.DmaArmCompletes : Prop :=
  ∀ (s : State) (d : Dir), s.cfgValid = true → s.cb.get d ≠ 0#32 → s.x0 ≠ null → s.x1 ≠ 0#32 →
    (s.ch.get d).buffer = null →
    s.x1.toNat % (s.cfg.channelCount.toNat * (s.cfg.bitDepth.toNat / 8)) = 0 → s.params.dma d = true →
    s.dmaAnswerAt 0 = 0#32 → s.dmaAnswerAt 1 = 0#32 →
    exec (armInstr d) s = .next { s with
      ch := s.ch.set d { s.ch.get d with buffer := s.x0, blockBytes := s.x1, running := true }
      ctl := if (s.ch.get d).running = true then s.ctl
        else s.ctl.set d { s.ctl.get d with chanEn := true, blkEn := true, ovrIe := true }
      res := 0#32
      dmaAnswers := s.dmaAnswers.drop 2
      draws := s.draws + (2 - s.dmaAnswers.length)
      trace := s.trace ++ s.armCleanEvents d ++
        [.dmaCfg d (s.armDescriptor d) 0#32, .dmaStart d 0#32, .result .ok] }

/-- 43_dma.md R120, R121: a DMA-mode arm whose configure or start request fails. The queue of the engine's answers and the counter of draws are the model's (log 5). -/
def Obligations.DmaArmRollsBack : Prop :=
  ∀ (s : State) (d : Dir), s.cfgValid = true → s.cb.get d ≠ 0#32 → s.x0 ≠ null → s.x1 ≠ 0#32 →
    (s.ch.get d).buffer = null →
    s.x1.toNat % (s.cfg.channelCount.toNat * (s.cfg.bitDepth.toNat / 8)) = 0 → s.params.dma d = true →
    (s.dmaAnswerAt 0 ≠ 0#32 →
      exec (armInstr d) s = .next { s with
        ch := s.ch.set d { s.ch.get d with buffer := null, blockBytes := s.x1 }
        x3 := s.dmaAnswerAt 0
        res := 4#32
        dmaAnswers := s.dmaAnswers.drop 1
        draws := s.draws + (1 - s.dmaAnswers.length)
        trace := s.trace ++ s.armCleanEvents d ++
          [.dmaCfg d (s.armDescriptor d) (s.dmaAnswerAt 0), .result .transportError] }) ∧
    (s.dmaAnswerAt 0 = 0#32 → s.dmaAnswerAt 1 ≠ 0#32 →
      exec (armInstr d) s = .next { s with
        ch := s.ch.set d { s.ch.get d with buffer := null, blockBytes := s.x1 }
        x3 := s.dmaAnswerAt 1
        res := 4#32
        dmaAnswers := s.dmaAnswers.drop 2
        draws := s.draws + (2 - s.dmaAnswers.length)
        trace := s.trace ++ s.armCleanEvents d ++
          [.dmaCfg d (s.armDescriptor d) 0#32, .dmaStart d (s.dmaAnswerAt 1), .result .transportError] })

/-! ### DISABLE -/

/-- 46_disable.md R160, R161: the three forms of `DISABLE`. The queue of the engine's answers and the counter of draws are the model's (log 5), and so is that FIFO_CLR leaves the queued receive entries and the raw flags (log 31). -/
def Obligations.DisableResets : Prop :=
  ∀ s : State,
    (∀ d, exec (disableInstr d) s = .next { s with
      ch := s.ch.set d { s.ch.get d with
        buffer := null, samples := 0#32, count := 0#32, index := 0#32, running := false, overrun := false }
      ctl := s.ctl.set d { s.ctl.get d with chanEn := false, blkEn := false, fifoIe := false, ovrIe := false }
      res := 0#32
      dmaAnswers := s.dmaAnswers.drop (s.params.dma d).toNat
      draws := s.draws + ((s.params.dma d).toNat - s.dmaAnswers.length)
      trace := s.trace ++ s.stopEventsAt d 0 ++ [.fifoClr d, .result .ok] }) ∧
    exec .disableBoth s = .next { s with
      ch := { tx := { s.ch.tx with
                buffer := null, samples := 0#32, count := 0#32, index := 0#32, running := false, overrun := false }
              rx := { s.ch.rx with
                buffer := null, samples := 0#32, count := 0#32, index := 0#32, running := false, overrun := false } }
      ctl := { tx := { s.ctl.tx with chanEn := false, blkEn := false, fifoIe := false, ovrIe := false }
               rx := { s.ctl.rx with chanEn := false, blkEn := false, fifoIe := false, ovrIe := false } }
      res := 0#32
      dmaAnswers := s.dmaAnswers.drop ((s.params.dma .tx).toNat + (s.params.dma .rx).toNat)
      draws := s.draws + (((s.params.dma .tx).toNat + (s.params.dma .rx).toNat) - s.dmaAnswers.length)
      trace := s.trace ++ s.stopEventsAt .tx 0 ++ [.fifoClr .tx] ++
        s.stopEventsAt .rx (s.params.dma .tx).toNat ++ [.fifoClr .rx, .result .ok] }

/-- 46_disable.md R163: after a `DISABLE` the direction is idle, a second one leaves the same state but for its trace and the engine's answers, and the next accepted pump-mode arm is a fresh start. -/
def Obligations.DisableIsIdempotent : Prop :=
  ∀ (s t : State) (d : Dir), exec (disableInstr d) s = .next t →
    t.phase d = .idle ∧
    (∃ u, exec (disableInstr d) t = .next u ∧
      u = { t with trace := u.trace, dmaAnswers := u.dmaAnswers, draws := u.draws }) ∧
    (∀ (b l : Word) (u : State), s.params.dma d = false →
      exec (armInstr d) { t with x0 := b, x1 := l } = .next u → u.res = 0#32 →
      (u.ch.get d).running = true ∧ u.ctl.get d = { t.ctl.get d with
        chanEn := true, blkEn := true, fifoIe := true, ovrIe := true })

/-- 43_dma.md R124, R127: after `DISABLE` of a direction neither a late DMA completion nor an activation calls back for the aborted transfer. -/
def Obligations.AbortedTransferGetsNoCallback : Prop :=
  ∀ (i : Instr) (s t : State) (d : Dir), disablesDir i d = true → exec i s = .next t →
    (t.ch.get d).buffer = null ∧
    (∀ st, exec (.dmaDone d st) t = .next t) ∧
    (∀ (r : BitVec 4) (u : State), exec (.irq r) t = .next u →
      u.ch.get d = t.ch.get d ∧ ∀ e, e ∈ u.trace.drop t.trace.length → e.isOf d = false)

/-! ### IRQ -/

/-- 60_exceptions.md R171: the status word. -/
def Obligations.StatusWord : Prop :=
  ∀ (s : State) (r : BitVec 4),
    (s.params.spec.statusMasked = true →
      s.status r = { tx := { rdy := r.getLsbD 0 && s.ctl.tx.fifoIe, ovr := r.getLsbD 1 && s.ctl.tx.ovrIe }
                     rx := { rdy := r.getLsbD 2 && s.ctl.rx.fifoIe, ovr := r.getLsbD 3 && s.ctl.rx.ovrIe } }) ∧
    (s.params.spec.statusMasked = false →
      s.status r = { tx := { rdy := r.getLsbD 0, ovr := r.getLsbD 1 }
                     rx := { rdy := r.getLsbD 2, ovr := r.getLsbD 3 } })

/-- 60_exceptions.md R172, 70_reset_and_hazards.md R212: the interrupt line, and that under owned enables every direction whose enabled flag is up is running, so that a high line always has such a direction behind it. -/
def Obligations.InterruptLine : Prop :=
  ∀ s : State,
    (s.irqLine = true ↔
      (s.raw.tx.rdy = true ∧ s.ctl.tx.fifoIe = true) ∨ (s.raw.tx.ovr = true ∧ s.ctl.tx.ovrIe = true) ∨
      (s.raw.rx.rdy = true ∧ s.ctl.rx.fifoIe = true) ∨ (s.raw.rx.ovr = true ∧ s.ctl.rx.ovrIe = true)) ∧
    (CoreInvariant s → EnablesOwned s →
      (∀ d, lineOf (s.raw.get d) (s.ctl.get d) = true → (s.ch.get d).running = true) ∧
      (s.irqLine = true → ∃ d, lineOf (s.raw.get d) (s.ctl.get d) = true ∧ (s.ch.get d).running = true))

/-- 45_dispatch.md R154: an activation that finds no bit of a running direction changes no state of the block and emits nothing; the dispatcher answers for every word and state. The raw flags are the environment's; that their field takes the sampled word is the model's deduction (log 8), and the line afterwards is the one the sampled flags give. -/
def Obligations.IdleActivation : Prop :=
  (∀ (r : BitVec 4) (s : State), ∃ t, exec (.irq r) s = .next t) ∧
  (∀ (r : BitVec 4) (s : State),
    (∀ d, (((s.status r).get d).rdy = false ∧ ((s.status r).get d).ovr = false) ∨ (s.ch.get d).running = false) →
    exec (.irq r) s = .next { s with raw := rawOfWord r } ∧
    ({ s with raw := rawOfWord r } : State).irqLine = s.irqLineFor (rawOfWord r))

/-- 44_pump.md R131, R132 (a): an overrun with no transfer in flight is latched and nothing moves. That the raw field takes the sampled word is the model's deduction (log 8); OVR_CLR lowers the overrun flag (60_exceptions.md R170). -/
def Obligations.OverrunLatchedWithoutTransfer : Prop :=
  ∀ (r : BitVec 4) (s : State) (d : Dir), s.params.dma d = false → (s.ch.get d).running = true →
    (s.ch.get d).buffer = null → ((s.status r).get d).ovr = true →
    ((s.status r).get (otherDir d)).rdy = false → ((s.status r).get (otherDir d)).ovr = false →
    exec (.irq r) s = .next { s with
      raw := (rawOfWord r).set d { (rawOfWord r).get d with ovr := false }
      ctl := s.ctl.set d { s.ctl.get d with ovrIe := false }
      ch := s.ch.set d { s.ch.get d with overrun := true }
      trace := s.trace ++ [.ovrClr d] }

/-- 45_dispatch.md R151: an overrun in DMA mode is cleared and logged, nothing else; under owned enables and a masked status word it is entered by the overrun bit alone. That the raw field takes the sampled word is the model's deduction (log 8); OVR_CLR lowers the overrun flag (60_exceptions.md R170). -/
def Obligations.DmaOverrunLogged : Prop :=
  ∀ (r : BitVec 4) (s : State) (d : Dir), s.params.dma d = true → (s.ch.get d).running = true →
    ((s.status r).get d).rdy = true ∨ ((s.status r).get d).ovr = true →
    ((s.status r).get (otherDir d)).rdy = false → ((s.status r).get (otherDir d)).ovr = false →
    exec (.irq r) s = .next { s with
      raw := (rawOfWord r).set d { (rawOfWord r).get d with ovr := false }
      trace := s.trace ++ [.ovrClr d, .log (.errDmaOverrun d)] } ∧
    (EnablesOwned s → s.params.spec.statusMasked = true → ((s.status r).get d).ovr = true)

/-- 44_pump.md R131, R133, R134, R135, R137, R141: an activation with a pump-mode transmit in flight, in every layout: the latch, the frames in order, the completion, and the direction's state. -/
def Obligations.TransmitActivation : Prop :=
  ∀ (r : BitVec 4) (s : State) (b : StatusBits) (n : Nat) (done : Bool),
    CoreInvariant s → TransfersCoherent s → s.params.dma .tx = false → s.ch.tx.buffer ≠ null →
    b = (s.status r).tx → b.rdy = true ∨ b.ovr = true →
    n = s.framesMoved .tx → done = decide (s.framesLeft .tx ≤ s.params.trig .tx) →
    ∃ t rest, exec (.irq r) s = .next t ∧
      t.trace = s.trace ++ (if b.ovr = true then [.ovrClr .tx] else []) ++
        (List.range n).map s.txFrameEvent ++
        (if done = true then
          [.cb .tx (if s.ch.tx.overrun = true ∨ b.ovr = true then .overrun else .ok) s.ch.tx.buffer s.cb.tx]
          else []) ++ rest ∧
      (∀ e, e ∈ rest → e.isOf .tx = false) ∧
      t.ch.tx = (if done = true then
        { s.ch.tx with buffer := null, samples := 0#32, count := s.ch.tx.samples, index := 0#32, overrun := false }
        else { s.ch.tx with
          count := s.ch.tx.count + BitVec.ofNat 32 (n * s.nch)
          index := s.ch.tx.index + BitVec.ofNat 32 (n * (indexStep s.frameLayout).toNat)
          overrun := s.ch.tx.overrun || b.ovr }) ∧
      t.ctl.tx = { s.ctl.tx with ovrIe := s.ctl.tx.ovrIe && !b.ovr, fifoIe := s.ctl.tx.fifoIe && !done }

/-- 44_pump.md R131, R136, R137, R138, R139, R141: an activation with a pump-mode receive in flight, in every layout: the latch, the entries in order, the samples stored and no other byte, the completion, and the direction's state. That the entries are the list `rxEntries` and then free values, modulo 2^bit_depth, is the model's choice (log 5). -/
def Obligations.ReceiveActivation : Prop :=
  ∀ (r : BitVec 4) (s : State) (b : StatusBits) (n : Nat) (done : Bool),
    CoreInvariant s → TransfersCoherent s → s.params.dma .rx = false → s.ch.rx.buffer ≠ null →
    b = (s.status r).rx → b.rdy = true ∨ b.ovr = true →
    n = s.framesMoved .rx → done = decide (s.framesLeft .rx ≤ s.params.trig .rx) →
    ∃ t before, exec (.irq r) s = .next t ∧
      t.trace = s.trace ++ before ++ (if b.ovr = true then [.ovrClr .rx] else []) ++
        (List.range n).map s.rxFrameEvent ++
        (if done = true then
          [.cb .rx (if s.ch.rx.overrun = true ∨ b.ovr = true then .overrun else .ok) s.ch.rx.buffer s.cb.rx]
          else []) ∧
      (∀ e, e ∈ before → e.isOf .rx = false) ∧
      (∀ k p, k < n → p ∈ (s.frameIndexes .rx k).zip (s.rxValuesAt k) →
        t.memRead (s.sampleAddr .rx p.1) s.bps = p.2) ∧
      (∀ a, ¬ s.rxStoresTo n a → t.mem.read a = s.mem.read a) ∧
      t.rxEntries = s.rxEntries.drop n ∧
      t.ch.rx = (if done = true then
        { s.ch.rx with buffer := null, samples := 0#32, count := s.ch.rx.samples, index := 0#32, overrun := false }
        else { s.ch.rx with
          count := s.ch.rx.count + BitVec.ofNat 32 (n * s.nch)
          index := s.ch.rx.index + BitVec.ofNat 32 (n * (indexStep s.frameLayout).toNat)
          overrun := s.ch.rx.overrun || b.ovr }) ∧
      t.ctl.rx = { s.ctl.rx with ovrIe := s.ctl.rx.ovrIe && !b.ovr, fifoIe := s.ctl.rx.fifoIe && !done }

/-- 45_dispatch.md R152: what an activation does to a direction depends on that direction alone (and the receive part on memory and the FIFO's entries): two states that agree there, however different the rest, end alike. The raw field and the lists and draws of the FIFO's entries are the model's (logs 8 and 5). -/
def Obligations.DirectionsIndependent : Prop :=
  ∀ (r r' : BitVec 4) (s s' t t' : State) (d : Dir), s'.params = s.params → s'.cfg = s.cfg →
    s'.ch.get d = s.ch.get d → s'.ctl.get d = s.ctl.get d → s'.cb.get d = s.cb.get d →
    s'.mem = s.mem → s'.rxEntries = s.rxEntries → s'.draws = s.draws →
    (rawOfWord r').get d = (rawOfWord r).get d →
    exec (.irq r) s = .next t → exec (.irq r') s' = .next t' →
    t'.ch.get d = t.ch.get d ∧ t'.ctl.get d = t.ctl.get d ∧ t'.raw.get d = t.raw.get d ∧
    (t'.trace.drop s'.trace.length).filter (Event.isOf d) = (t.trace.drop s.trace.length).filter (Event.isOf d) ∧
    (d = .rx → t'.mem = t.mem ∧ t'.rxEntries = t.rxEntries)

/-- 60_exceptions.md R185 (b), 45_dispatch.md R155 item 5: what an activation never writes, and the one way each element it writes can go. -/
def Obligations.ActivationFrame : Prop :=
  ∀ (r : BitVec 4) (s t : State), exec (.irq r) s = .next t →
    t.params = s.params ∧ t.x0 = s.x0 ∧ t.x1 = s.x1 ∧ t.x2 = s.x2 ∧ t.x3 = s.x3 ∧ t.x4 = s.x4 ∧ t.x5 = s.x5 ∧
    t.cmd = s.cmd ∧ t.res = s.res ∧ t.cfg = s.cfg ∧ t.cfgValid = s.cfgValid ∧ t.clkDiv = s.clkDiv ∧
    t.wss = s.wss ∧ t.clkEn = s.clkEn ∧ t.achievedBclk = s.achievedBclk ∧ t.clkWarn = s.clkWarn ∧ t.cb = s.cb ∧
    t.pending = s.pending ∧ t.dmaAnswers = s.dmaAnswers ∧ s.trace <+: t.trace ∧
    ∀ d, (t.ch.get d).running = (s.ch.get d).running ∧ (t.ch.get d).blockBytes = (s.ch.get d).blockBytes ∧
      (t.ctl.get d).chanEn = (s.ctl.get d).chanEn ∧ (t.ctl.get d).blkEn = (s.ctl.get d).blkEn ∧
      (t.ctl.get d).wlen = (s.ctl.get d).wlen ∧
      ((t.ctl.get d).fifoIe = true → (s.ctl.get d).fifoIe = true) ∧
      ((t.ctl.get d).ovrIe = true → (s.ctl.get d).ovrIe = true) ∧
      ((t.ch.get d).buffer = (s.ch.get d).buffer ∨ (t.ch.get d).buffer = null)

/-- 44_pump.md R141: a coherent transfer of `F` frames whose FIFO stays ready completes in the last of `ceil(F / TRIG_d)` activations, not before, with exactly one callback. -/
def Obligations.TransferCompletesInTime : Prop :=
  ∀ (r : BitVec 4) (s : State) (d : Dir) (n : Nat), CoreInvariant s → TransfersCoherent s →
    s.params.dma d = false → (s.ch.get d).buffer ≠ null → ((s.status r).get d).rdy = true →
    0 < s.framesLeft d → n = (s.framesLeft d + s.params.trig d - 1) / s.params.trig d →
    (∀ m, m < n → ∃ u, irqTimes r m s = some u ∧ (u.ch.get d).buffer = (s.ch.get d).buffer ∧
      u.framesLeft d = s.framesLeft d - m * s.params.trig d) ∧
    ∃ t new, irqTimes r n s = some t ∧ t.trace = s.trace ++ new ∧ (t.ch.get d).buffer = null ∧
      (new.filter (Event.isCbOf d)).length = 1

/-! ### DMA_DONE -/

/-- 43_dma.md R123: a completion for a DMA transfer in flight. -/
def Obligations.DmaDoneCompletes : Prop :=
  ∀ (s : State) (st : Word),
    (s.params.dma .tx = true → s.ch.tx.buffer ≠ null →
      exec (.dmaDone .tx st) s = .next { s with
        ch := { s.ch with tx := { s.ch.tx with buffer := null } }
        trace := s.trace ++ (if st = 0#32 then [] else [.log (.errDmaStatus .tx st)]) ++
          [.cb .tx (if st = 0#32 then .ok else .txError) s.ch.tx.buffer s.cb.tx] }) ∧
    (s.params.dma .rx = true → s.ch.rx.buffer ≠ null →
      exec (.dmaDone .rx st) s = .next { s with
        ch := { s.ch with rx := { s.ch.rx with buffer := null } }
        trace := s.trace ++ [.cacheInv s.ch.rx.buffer s.ch.rx.blockBytes] ++
          (if st = 0#32 then [] else [.log (.errDmaStatus .rx st)]) ++
          [.cb .rx (if st = 0#32 then .ok else .rxError) s.ch.rx.buffer s.cb.rx] })

/-- 43_dma.md R124: an ignored completion changes no state and emits nothing. -/
def Obligations.DmaDoneIgnored : Prop :=
  ∀ (s : State) (d : Dir) (st : Word), s.params.dma d = false ∨ (s.ch.get d).buffer = null →
    exec (.dmaDone d st) s = .next s

/-! ### Memory -/

/-- 20_memory.md R52: `MemRead` and `MemWrite` byte by byte, little-endian, modulo `2 ^ 32`. -/
def Obligations.MemoryIsLittleEndian : Prop :=
  ∀ s : State, s.params.spec.byteOrder = .little →
    (∀ a n : Nat, s.memRead a n =
      ((List.range n).map fun k => (s.mem.read ((a + k) % 2 ^ 32)).toNat * 256 ^ k).sum) ∧
    (∀ a n v : Nat, s.mem.wf = true → n ≤ 2 ^ 32 →
      (∀ k, k < n → ((s.memWrite a n v).mem.read ((a + k) % 2 ^ 32)).toNat = v / 256 ^ k % 256) ∧
      (∀ c, (∀ k, k < n → c ≠ (a + k) % 2 ^ 32) → (s.memWrite a n v).mem.read c = s.mem.read c) ∧
      (s.memWrite a n v).mem.wf = true)

/-- 20_memory.md R53: under a legal configuration a sample stored is the whole number, and reads back as stored; no extension, shift or truncation. -/
def Obligations.SampleReadsBack : Prop :=
  ∀ (s : State) (d : Dir) (i v : Nat), s.mem.wf = true → ConfigCoherent s → v < 2 ^ s.cfg.bitDepth.toNat →
    (s.wr d i v).rd d i = v ∧ (∀ j, s.rd d j < 2 ^ s.cfg.bitDepth.toNat) ∧ s.rxLeft < 2 ^ s.cfg.bitDepth.toNat ∧
      s.rxRight < 2 ^ s.cfg.bitDepth.toNat

/-- 20_memory.md R58: every sample index the pump uses is below `samples`, and every byte of it lies in the borrowed buffer. -/
def Obligations.PumpStaysInBuffer : Prop :=
  ∀ (s : State) (d : Dir) (k i b : Nat), ConfigCoherent s → TransferCoherent s d → (s.ch.get d).buffer ≠ null →
    k < s.framesLeft d → i ∈ s.frameIndexes d k → b < s.bps →
    i < (s.ch.get d).samples.toNat ∧
    s.borrowed d (BitVec.ofNat 32 (s.sampleAddr d i + b)) = true

/-- 20_memory.md R50, R56: an operation changes a byte of memory only as a pump-mode receive inside its borrowed buffer. -/
def Obligations.OnlyReceiveWritesMemory : Prop :=
  ∀ (i : Instr) (s t : State) (a : Word), CoreInvariant s → TransfersCoherent s → exec i s = .next t →
    t.mem.read a.toNat ≠ s.mem.read a.toNat →
    (∃ r, i = .irq r) ∧ s.params.dma .rx = false ∧ s.borrowed .rx a = true

/-! ### Whole-machine rules -/

/-- 10_state.md R33, R32: the four phases by their conditions, and the derived flags. -/
def Obligations.PhaseConditions : Prop :=
  ∀ (s : State) (d : Dir),
    (s.phase d = .idle ↔ (s.ch.get d).buffer = null ∧ (s.ch.get d).running = false) ∧
    (s.phase d = .primed ↔ (s.ch.get d).buffer = null ∧ (s.ch.get d).running = true) ∧
    (s.phase d = .armed ↔ (s.ch.get d).buffer ≠ null ∧ (s.params.dma d = true ∨ (s.ch.get d).count = 0#32)) ∧
    (s.phase d = .draining ↔ (s.ch.get d).buffer ≠ null ∧ s.params.dma d = false ∧ 0 < (s.ch.get d).count.toNat) ∧
    (s.armedFlag d = true ↔ (s.ch.get d).buffer ≠ null) ∧
    (s.drainingFlag d = true ↔ s.phase d = .draining) ∧
    s.overrunFlag d = (s.ch.get d).overrun

/-- 10_state.md R34: no operation moves a direction between phases except as the table says. -/
def Obligations.PhaseTransitions : Prop :=
  ∀ (i : Instr) (s t : State) (d : Dir), CoreInvariant s → TransfersCoherent s → exec i s = .next t →
    t.phase d = s.phase d ∨
    ((s.phase d = .idle ∨ s.phase d = .primed) ∧ i = armInstr d ∧ t.res = 0#32 ∧ t.phase d = .armed) ∨
    (s.phase d = .armed ∧ s.params.dma d = false ∧ (∃ r, i = .irq r) ∧ t.phase d = .draining) ∨
    ((s.phase d = .armed ∨ s.phase d = .draining) ∧ s.params.dma d = false ∧ (∃ r, i = .irq r) ∧
      t.phase d = .primed) ∨
    (s.phase d = .armed ∧ s.params.dma d = true ∧ (∃ st, i = .dmaDone d st) ∧ t.phase d = .primed) ∨
    (disablesDir i d = true ∧ t.phase d = .idle)

/-- 20_memory.md R59 item 3, 44_pump.md R137, 43_dma.md R123: an operation calls back for a direction exactly when it is an event that ends that direction's transfer, once, with the buffer the transfer was armed with and the handle stored now. -/
def Obligations.CallbackMarksCompletion : Prop :=
  ∀ (i : Instr) (s t : State) (d : Dir), exec i s = .next t →
    ∃ st, (t.trace.drop s.trace.length).filter (Event.isCbOf d) =
      if isCommand i = false ∧ (s.ch.get d).buffer ≠ null ∧ (t.ch.get d).buffer = null then
        [.cb d st (s.ch.get d).buffer (s.cb.get d)] else []

/-- 60_exceptions.md R186: who may set and clear the buffer pointer, and who writes `running`. -/
def Obligations.BufferPointerWriters : Prop :=
  ∀ (i : Instr) (s t : State) (d : Dir), exec i s = .next t →
    ((s.ch.get d).buffer = null → (t.ch.get d).buffer ≠ null →
      i = armInstr d ∧ t.res = 0#32 ∧ (t.ch.get d).buffer = s.x0) ∧
    ((s.ch.get d).buffer ≠ null → (t.ch.get d).buffer ≠ (s.ch.get d).buffer →
      (t.ch.get d).buffer = null ∧ (isCommand i = false ∨ disablesDir i d = true)) ∧
    ((t.ch.get d).running ≠ (s.ch.get d).running → isCommand i = true)

/-- 10_state.md R23, R24, R25, R28, R29: the configuration, the clock registers and the word lengths are written by `CONFIGURE` alone, a callback handle by its registration alone. -/
def Obligations.ConfigurationWriters : Prop :=
  ∀ (i : Instr) (s t : State), exec i s = .next t →
    (i = .configure ∨
      (t.cfg = s.cfg ∧ t.cfgValid = s.cfgValid ∧ t.clkDiv = s.clkDiv ∧ t.wss = s.wss ∧ t.clkEn = s.clkEn ∧
        t.achievedBclk = s.achievedBclk ∧ t.clkWarn = s.clkWarn ∧ ∀ d, (t.ctl.get d).wlen = (s.ctl.get d).wlen)) ∧
    (∀ d, i = registerInstr d ∨ t.cb.get d = s.cb.get d) ∧
    (i = .configure → t.ch = s.ch ∧ ∀ d, (t.ctl.get d).blkEn = (s.ctl.get d).blkEn)

/-- 10_state.md R21, writes: a command register an operation does not write keeps its value. -/
def Obligations.CommandRegisterWriters : Prop :=
  ∀ (i : Instr) (s t : State), exec i s = .next t →
    t.x0 = s.x0 ∧ t.x1 = s.x1 ∧ t.x2 = s.x2 ∧ t.cmd = s.cmd ∧
    (t.x3 = s.x3 ∨ i = .getConfig ∨ (∃ d, i = armInstr d ∧ t.res = 4#32 ∧ s.params.dma d = true)) ∧
    (t.x4 = s.x4 ∨ i = .getConfig) ∧ (t.x5 = s.x5 ∨ i = .getConfig) ∧
    (t.res = s.res ∨ isCommand i = true)

/-- 60_exceptions.md R175: every command ends with exactly one `RESULT`, last in its trace, and the same code in `RES`; which command may report which code; no event operation reports one. -/
def Obligations.CommandEndsWithResult : Prop :=
  ∀ (i : Instr) (s t : State), exec i s = .next t →
    (isCommand i = true → ∃ c evs, t.trace = s.trace ++ evs ++ [.result c] ∧
      (∀ e, e ∈ evs → e.isResult = false) ∧
      ((c = .ok ∧ t.res = 0x0#32) ∨
        (c = .invalidConfig ∧ t.res = 0x1#32 ∧ i = .configure) ∨
        (c = .invalidArgument ∧ t.res = 0x2#32 ∧ ∃ d, i = armInstr d) ∨
        (c = .inProgress ∧ t.res = 0x3#32 ∧ ∃ d, i = armInstr d ∧ (s.ch.get d).buffer ≠ null) ∨
        (c = .transportError ∧ t.res = 0x4#32 ∧ ∃ d, i = armInstr d ∧ s.params.dma d = true ∧ t.x3 ≠ 0#32))) ∧
    (isCommand i = false → t.res = s.res ∧ ∃ evs, t.trace = s.trace ++ evs ∧ ∀ e, e ∈ evs → e.isResult = false)

end
end

