-- ==== Sys2Proof/Laws/State.lean ====
section
/-! SUPPORT. The small lemmas of the state record: what each named update leaves in each field, so that no later proof unfolds a record update. -/

namespace Sys2Proof

@[simp] theorem PerDir.get_set_same {α : Type} (p : PerDir α) (d : Dir) (v : α) : (p.set d v).get d = v := by
  cases d <;> rfl
@[simp] theorem PerDir.get_tx {α : Type} (p : PerDir α) : p.get .tx = p.tx := rfl
@[simp] theorem PerDir.get_rx {α : Type} (p : PerDir α) : p.get .rx = p.rx := rfl
@[simp] theorem PerDir.set_tx_tx {α : Type} (p : PerDir α) (v : α) : (p.set .tx v).tx = v := rfl
@[simp] theorem PerDir.set_tx_rx {α : Type} (p : PerDir α) (v : α) : (p.set .tx v).rx = p.rx := rfl
@[simp] theorem PerDir.set_rx_rx {α : Type} (p : PerDir α) (v : α) : (p.set .rx v).rx = v := rfl
@[simp] theorem PerDir.set_rx_tx {α : Type} (p : PerDir α) (v : α) : (p.set .rx v).tx = p.tx := rfl
@[simp] theorem PerDir.set_set {α : Type} (p : PerDir α) (d : Dir) (v w : α) :
    (p.set d v).set d w = p.set d w := by
  cases d <;> rfl
theorem PerDir.get_set_other {α : Type} (p : PerDir α) (d e : Dir) (v : α) (h : e ≠ d) :
    (p.set d v).get e = p.get e := by
  cases d <;> cases e <;> simp_all
theorem PerDir.get_set {α : Type} (p : PerDir α) (d e : Dir) (v : α) :
    (p.set d v).get e = if e = d then v else p.get e := by
  cases d <;> cases e <;> simp

namespace Machine

variable (s : State)

/-! ### `setCh` -/

@[simp] theorem State.setCh_params (d : Dir) (c : Channel) : (s.setCh d c).params = s.params := rfl
@[simp] theorem State.setCh_x0 (d : Dir) (c : Channel) : (s.setCh d c).x0 = s.x0 := rfl
@[simp] theorem State.setCh_x1 (d : Dir) (c : Channel) : (s.setCh d c).x1 = s.x1 := rfl
@[simp] theorem State.setCh_x2 (d : Dir) (c : Channel) : (s.setCh d c).x2 = s.x2 := rfl
@[simp] theorem State.setCh_x3 (d : Dir) (c : Channel) : (s.setCh d c).x3 = s.x3 := rfl
@[simp] theorem State.setCh_x4 (d : Dir) (c : Channel) : (s.setCh d c).x4 = s.x4 := rfl
@[simp] theorem State.setCh_x5 (d : Dir) (c : Channel) : (s.setCh d c).x5 = s.x5 := rfl
@[simp] theorem State.setCh_cmd (d : Dir) (c : Channel) : (s.setCh d c).cmd = s.cmd := rfl
@[simp] theorem State.setCh_res (d : Dir) (c : Channel) : (s.setCh d c).res = s.res := rfl
@[simp] theorem State.setCh_cfg (d : Dir) (c : Channel) : (s.setCh d c).cfg = s.cfg := rfl
@[simp] theorem State.setCh_cfgValid (d : Dir) (c : Channel) : (s.setCh d c).cfgValid = s.cfgValid := rfl
@[simp] theorem State.setCh_clkDiv (d : Dir) (c : Channel) : (s.setCh d c).clkDiv = s.clkDiv := rfl
@[simp] theorem State.setCh_wss (d : Dir) (c : Channel) : (s.setCh d c).wss = s.wss := rfl
@[simp] theorem State.setCh_clkEn (d : Dir) (c : Channel) : (s.setCh d c).clkEn = s.clkEn := rfl
@[simp] theorem State.setCh_achievedBclk (d : Dir) (c : Channel) : (s.setCh d c).achievedBclk = s.achievedBclk := rfl
@[simp] theorem State.setCh_clkWarn (d : Dir) (c : Channel) : (s.setCh d c).clkWarn = s.clkWarn := rfl
@[simp] theorem State.setCh_ch (d : Dir) (c : Channel) : (s.setCh d c).ch = s.ch.set d c := rfl
@[simp] theorem State.setCh_cb (d : Dir) (c : Channel) : (s.setCh d c).cb = s.cb := rfl
@[simp] theorem State.setCh_ctl (d : Dir) (c : Channel) : (s.setCh d c).ctl = s.ctl := rfl
@[simp] theorem State.setCh_raw (d : Dir) (c : Channel) : (s.setCh d c).raw = s.raw := rfl
@[simp] theorem State.setCh_mem (d : Dir) (c : Channel) : (s.setCh d c).mem = s.mem := rfl
@[simp] theorem State.setCh_trace (d : Dir) (c : Channel) : (s.setCh d c).trace = s.trace := rfl
@[simp] theorem State.setCh_pending (d : Dir) (c : Channel) : (s.setCh d c).pending = s.pending := rfl
@[simp] theorem State.setCh_dmaAnswers (d : Dir) (c : Channel) : (s.setCh d c).dmaAnswers = s.dmaAnswers := rfl
@[simp] theorem State.setCh_rxEntries (d : Dir) (c : Channel) : (s.setCh d c).rxEntries = s.rxEntries := rfl
@[simp] theorem State.setCh_draws (d : Dir) (c : Channel) : (s.setCh d c).draws = s.draws := rfl

/-! ### `setCtl` -/

@[simp] theorem State.setCtl_params (d : Dir) (c : PortCtl) : (s.setCtl d c).params = s.params := rfl
@[simp] theorem State.setCtl_x0 (d : Dir) (c : PortCtl) : (s.setCtl d c).x0 = s.x0 := rfl
@[simp] theorem State.setCtl_x1 (d : Dir) (c : PortCtl) : (s.setCtl d c).x1 = s.x1 := rfl
@[simp] theorem State.setCtl_x2 (d : Dir) (c : PortCtl) : (s.setCtl d c).x2 = s.x2 := rfl
@[simp] theorem State.setCtl_x3 (d : Dir) (c : PortCtl) : (s.setCtl d c).x3 = s.x3 := rfl
@[simp] theorem State.setCtl_x4 (d : Dir) (c : PortCtl) : (s.setCtl d c).x4 = s.x4 := rfl
@[simp] theorem State.setCtl_x5 (d : Dir) (c : PortCtl) : (s.setCtl d c).x5 = s.x5 := rfl
@[simp] theorem State.setCtl_cmd (d : Dir) (c : PortCtl) : (s.setCtl d c).cmd = s.cmd := rfl
@[simp] theorem State.setCtl_res (d : Dir) (c : PortCtl) : (s.setCtl d c).res = s.res := rfl
@[simp] theorem State.setCtl_cfg (d : Dir) (c : PortCtl) : (s.setCtl d c).cfg = s.cfg := rfl
@[simp] theorem State.setCtl_cfgValid (d : Dir) (c : PortCtl) : (s.setCtl d c).cfgValid = s.cfgValid := rfl
@[simp] theorem State.setCtl_clkDiv (d : Dir) (c : PortCtl) : (s.setCtl d c).clkDiv = s.clkDiv := rfl
@[simp] theorem State.setCtl_wss (d : Dir) (c : PortCtl) : (s.setCtl d c).wss = s.wss := rfl
@[simp] theorem State.setCtl_clkEn (d : Dir) (c : PortCtl) : (s.setCtl d c).clkEn = s.clkEn := rfl
@[simp] theorem State.setCtl_achievedBclk (d : Dir) (c : PortCtl) :
    (s.setCtl d c).achievedBclk = s.achievedBclk := rfl
@[simp] theorem State.setCtl_clkWarn (d : Dir) (c : PortCtl) : (s.setCtl d c).clkWarn = s.clkWarn := rfl
@[simp] theorem State.setCtl_ch (d : Dir) (c : PortCtl) : (s.setCtl d c).ch = s.ch := rfl
@[simp] theorem State.setCtl_cb (d : Dir) (c : PortCtl) : (s.setCtl d c).cb = s.cb := rfl
@[simp] theorem State.setCtl_ctl (d : Dir) (c : PortCtl) : (s.setCtl d c).ctl = s.ctl.set d c := rfl
@[simp] theorem State.setCtl_raw (d : Dir) (c : PortCtl) : (s.setCtl d c).raw = s.raw := rfl
@[simp] theorem State.setCtl_mem (d : Dir) (c : PortCtl) : (s.setCtl d c).mem = s.mem := rfl
@[simp] theorem State.setCtl_trace (d : Dir) (c : PortCtl) : (s.setCtl d c).trace = s.trace := rfl
@[simp] theorem State.setCtl_pending (d : Dir) (c : PortCtl) : (s.setCtl d c).pending = s.pending := rfl
@[simp] theorem State.setCtl_dmaAnswers (d : Dir) (c : PortCtl) : (s.setCtl d c).dmaAnswers = s.dmaAnswers := rfl
@[simp] theorem State.setCtl_rxEntries (d : Dir) (c : PortCtl) : (s.setCtl d c).rxEntries = s.rxEntries := rfl
@[simp] theorem State.setCtl_draws (d : Dir) (c : PortCtl) : (s.setCtl d c).draws = s.draws := rfl

/-! ### `setCb` -/

@[simp] theorem State.setCb_params (d : Dir) (h : Word) : (s.setCb d h).params = s.params := rfl
@[simp] theorem State.setCb_x0 (d : Dir) (h : Word) : (s.setCb d h).x0 = s.x0 := rfl
@[simp] theorem State.setCb_x1 (d : Dir) (h : Word) : (s.setCb d h).x1 = s.x1 := rfl
@[simp] theorem State.setCb_x2 (d : Dir) (h : Word) : (s.setCb d h).x2 = s.x2 := rfl
@[simp] theorem State.setCb_x3 (d : Dir) (h : Word) : (s.setCb d h).x3 = s.x3 := rfl
@[simp] theorem State.setCb_x4 (d : Dir) (h : Word) : (s.setCb d h).x4 = s.x4 := rfl
@[simp] theorem State.setCb_x5 (d : Dir) (h : Word) : (s.setCb d h).x5 = s.x5 := rfl
@[simp] theorem State.setCb_cmd (d : Dir) (h : Word) : (s.setCb d h).cmd = s.cmd := rfl
@[simp] theorem State.setCb_res (d : Dir) (h : Word) : (s.setCb d h).res = s.res := rfl
@[simp] theorem State.setCb_cfg (d : Dir) (h : Word) : (s.setCb d h).cfg = s.cfg := rfl
@[simp] theorem State.setCb_cfgValid (d : Dir) (h : Word) : (s.setCb d h).cfgValid = s.cfgValid := rfl
@[simp] theorem State.setCb_clkDiv (d : Dir) (h : Word) : (s.setCb d h).clkDiv = s.clkDiv := rfl
@[simp] theorem State.setCb_wss (d : Dir) (h : Word) : (s.setCb d h).wss = s.wss := rfl
@[simp] theorem State.setCb_clkEn (d : Dir) (h : Word) : (s.setCb d h).clkEn = s.clkEn := rfl
@[simp] theorem State.setCb_achievedBclk (d : Dir) (h : Word) : (s.setCb d h).achievedBclk = s.achievedBclk := rfl
@[simp] theorem State.setCb_clkWarn (d : Dir) (h : Word) : (s.setCb d h).clkWarn = s.clkWarn := rfl
@[simp] theorem State.setCb_ch (d : Dir) (h : Word) : (s.setCb d h).ch = s.ch := rfl
@[simp] theorem State.setCb_cb (d : Dir) (h : Word) : (s.setCb d h).cb = s.cb.set d h := rfl
@[simp] theorem State.setCb_ctl (d : Dir) (h : Word) : (s.setCb d h).ctl = s.ctl := rfl
@[simp] theorem State.setCb_raw (d : Dir) (h : Word) : (s.setCb d h).raw = s.raw := rfl
@[simp] theorem State.setCb_mem (d : Dir) (h : Word) : (s.setCb d h).mem = s.mem := rfl
@[simp] theorem State.setCb_trace (d : Dir) (h : Word) : (s.setCb d h).trace = s.trace := rfl
@[simp] theorem State.setCb_pending (d : Dir) (h : Word) : (s.setCb d h).pending = s.pending := rfl
@[simp] theorem State.setCb_dmaAnswers (d : Dir) (h : Word) : (s.setCb d h).dmaAnswers = s.dmaAnswers := rfl
@[simp] theorem State.setCb_rxEntries (d : Dir) (h : Word) : (s.setCb d h).rxEntries = s.rxEntries := rfl
@[simp] theorem State.setCb_draws (d : Dir) (h : Word) : (s.setCb d h).draws = s.draws := rfl

/-! ### `setFifoIe` -/

@[simp] theorem State.setFifoIe_params (d : Dir) (v : Bool) : (s.setFifoIe d v).params = s.params := rfl
@[simp] theorem State.setFifoIe_x0 (d : Dir) (v : Bool) : (s.setFifoIe d v).x0 = s.x0 := rfl
@[simp] theorem State.setFifoIe_x1 (d : Dir) (v : Bool) : (s.setFifoIe d v).x1 = s.x1 := rfl
@[simp] theorem State.setFifoIe_x2 (d : Dir) (v : Bool) : (s.setFifoIe d v).x2 = s.x2 := rfl
@[simp] theorem State.setFifoIe_x3 (d : Dir) (v : Bool) : (s.setFifoIe d v).x3 = s.x3 := rfl
@[simp] theorem State.setFifoIe_x4 (d : Dir) (v : Bool) : (s.setFifoIe d v).x4 = s.x4 := rfl
@[simp] theorem State.setFifoIe_x5 (d : Dir) (v : Bool) : (s.setFifoIe d v).x5 = s.x5 := rfl
@[simp] theorem State.setFifoIe_cmd (d : Dir) (v : Bool) : (s.setFifoIe d v).cmd = s.cmd := rfl
@[simp] theorem State.setFifoIe_res (d : Dir) (v : Bool) : (s.setFifoIe d v).res = s.res := rfl
@[simp] theorem State.setFifoIe_cfg (d : Dir) (v : Bool) : (s.setFifoIe d v).cfg = s.cfg := rfl
@[simp] theorem State.setFifoIe_cfgValid (d : Dir) (v : Bool) : (s.setFifoIe d v).cfgValid = s.cfgValid := rfl
@[simp] theorem State.setFifoIe_clkDiv (d : Dir) (v : Bool) : (s.setFifoIe d v).clkDiv = s.clkDiv := rfl
@[simp] theorem State.setFifoIe_wss (d : Dir) (v : Bool) : (s.setFifoIe d v).wss = s.wss := rfl
@[simp] theorem State.setFifoIe_clkEn (d : Dir) (v : Bool) : (s.setFifoIe d v).clkEn = s.clkEn := rfl
@[simp] theorem State.setFifoIe_achievedBclk (d : Dir) (v : Bool) :
    (s.setFifoIe d v).achievedBclk = s.achievedBclk := rfl
@[simp] theorem State.setFifoIe_clkWarn (d : Dir) (v : Bool) : (s.setFifoIe d v).clkWarn = s.clkWarn := rfl
@[simp] theorem State.setFifoIe_ch (d : Dir) (v : Bool) : (s.setFifoIe d v).ch = s.ch := rfl
@[simp] theorem State.setFifoIe_cb (d : Dir) (v : Bool) : (s.setFifoIe d v).cb = s.cb := rfl
@[simp] theorem State.setFifoIe_ctl (d : Dir) (v : Bool) :
    (s.setFifoIe d v).ctl = s.ctl.set d { s.ctl.get d with fifoIe := v } := rfl
@[simp] theorem State.setFifoIe_raw (d : Dir) (v : Bool) : (s.setFifoIe d v).raw = s.raw := rfl
@[simp] theorem State.setFifoIe_mem (d : Dir) (v : Bool) : (s.setFifoIe d v).mem = s.mem := rfl
@[simp] theorem State.setFifoIe_trace (d : Dir) (v : Bool) : (s.setFifoIe d v).trace = s.trace := rfl
@[simp] theorem State.setFifoIe_pending (d : Dir) (v : Bool) : (s.setFifoIe d v).pending = s.pending := rfl
@[simp] theorem State.setFifoIe_dmaAnswers (d : Dir) (v : Bool) : (s.setFifoIe d v).dmaAnswers = s.dmaAnswers := rfl
@[simp] theorem State.setFifoIe_rxEntries (d : Dir) (v : Bool) : (s.setFifoIe d v).rxEntries = s.rxEntries := rfl
@[simp] theorem State.setFifoIe_draws (d : Dir) (v : Bool) : (s.setFifoIe d v).draws = s.draws := rfl

/-! ### `setOvrIe` -/

@[simp] theorem State.setOvrIe_params (d : Dir) (v : Bool) : (s.setOvrIe d v).params = s.params := rfl
@[simp] theorem State.setOvrIe_x0 (d : Dir) (v : Bool) : (s.setOvrIe d v).x0 = s.x0 := rfl
@[simp] theorem State.setOvrIe_x1 (d : Dir) (v : Bool) : (s.setOvrIe d v).x1 = s.x1 := rfl
@[simp] theorem State.setOvrIe_x2 (d : Dir) (v : Bool) : (s.setOvrIe d v).x2 = s.x2 := rfl
@[simp] theorem State.setOvrIe_x3 (d : Dir) (v : Bool) : (s.setOvrIe d v).x3 = s.x3 := rfl
@[simp] theorem State.setOvrIe_x4 (d : Dir) (v : Bool) : (s.setOvrIe d v).x4 = s.x4 := rfl
@[simp] theorem State.setOvrIe_x5 (d : Dir) (v : Bool) : (s.setOvrIe d v).x5 = s.x5 := rfl
@[simp] theorem State.setOvrIe_cmd (d : Dir) (v : Bool) : (s.setOvrIe d v).cmd = s.cmd := rfl
@[simp] theorem State.setOvrIe_res (d : Dir) (v : Bool) : (s.setOvrIe d v).res = s.res := rfl
@[simp] theorem State.setOvrIe_cfg (d : Dir) (v : Bool) : (s.setOvrIe d v).cfg = s.cfg := rfl
@[simp] theorem State.setOvrIe_cfgValid (d : Dir) (v : Bool) : (s.setOvrIe d v).cfgValid = s.cfgValid := rfl
@[simp] theorem State.setOvrIe_clkDiv (d : Dir) (v : Bool) : (s.setOvrIe d v).clkDiv = s.clkDiv := rfl
@[simp] theorem State.setOvrIe_wss (d : Dir) (v : Bool) : (s.setOvrIe d v).wss = s.wss := rfl
@[simp] theorem State.setOvrIe_clkEn (d : Dir) (v : Bool) : (s.setOvrIe d v).clkEn = s.clkEn := rfl
@[simp] theorem State.setOvrIe_achievedBclk (d : Dir) (v : Bool) :
    (s.setOvrIe d v).achievedBclk = s.achievedBclk := rfl
@[simp] theorem State.setOvrIe_clkWarn (d : Dir) (v : Bool) : (s.setOvrIe d v).clkWarn = s.clkWarn := rfl
@[simp] theorem State.setOvrIe_ch (d : Dir) (v : Bool) : (s.setOvrIe d v).ch = s.ch := rfl
@[simp] theorem State.setOvrIe_cb (d : Dir) (v : Bool) : (s.setOvrIe d v).cb = s.cb := rfl
@[simp] theorem State.setOvrIe_ctl (d : Dir) (v : Bool) :
    (s.setOvrIe d v).ctl = s.ctl.set d { s.ctl.get d with ovrIe := v } := rfl
@[simp] theorem State.setOvrIe_raw (d : Dir) (v : Bool) : (s.setOvrIe d v).raw = s.raw := rfl
@[simp] theorem State.setOvrIe_mem (d : Dir) (v : Bool) : (s.setOvrIe d v).mem = s.mem := rfl
@[simp] theorem State.setOvrIe_trace (d : Dir) (v : Bool) : (s.setOvrIe d v).trace = s.trace := rfl
@[simp] theorem State.setOvrIe_pending (d : Dir) (v : Bool) : (s.setOvrIe d v).pending = s.pending := rfl
@[simp] theorem State.setOvrIe_dmaAnswers (d : Dir) (v : Bool) : (s.setOvrIe d v).dmaAnswers = s.dmaAnswers := rfl
@[simp] theorem State.setOvrIe_rxEntries (d : Dir) (v : Bool) : (s.setOvrIe d v).rxEntries = s.rxEntries := rfl
@[simp] theorem State.setOvrIe_draws (d : Dir) (v : Bool) : (s.setOvrIe d v).draws = s.draws := rfl

/-! ### `emit` -/

@[simp] theorem State.emit_params (e : Event) : (s.emit e).params = s.params := rfl
@[simp] theorem State.emit_x0 (e : Event) : (s.emit e).x0 = s.x0 := rfl
@[simp] theorem State.emit_x1 (e : Event) : (s.emit e).x1 = s.x1 := rfl
@[simp] theorem State.emit_x2 (e : Event) : (s.emit e).x2 = s.x2 := rfl
@[simp] theorem State.emit_x3 (e : Event) : (s.emit e).x3 = s.x3 := rfl
@[simp] theorem State.emit_x4 (e : Event) : (s.emit e).x4 = s.x4 := rfl
@[simp] theorem State.emit_x5 (e : Event) : (s.emit e).x5 = s.x5 := rfl
@[simp] theorem State.emit_cmd (e : Event) : (s.emit e).cmd = s.cmd := rfl
@[simp] theorem State.emit_res (e : Event) : (s.emit e).res = s.res := rfl
@[simp] theorem State.emit_cfg (e : Event) : (s.emit e).cfg = s.cfg := rfl
@[simp] theorem State.emit_cfgValid (e : Event) : (s.emit e).cfgValid = s.cfgValid := rfl
@[simp] theorem State.emit_clkDiv (e : Event) : (s.emit e).clkDiv = s.clkDiv := rfl
@[simp] theorem State.emit_wss (e : Event) : (s.emit e).wss = s.wss := rfl
@[simp] theorem State.emit_clkEn (e : Event) : (s.emit e).clkEn = s.clkEn := rfl
@[simp] theorem State.emit_achievedBclk (e : Event) : (s.emit e).achievedBclk = s.achievedBclk := rfl
@[simp] theorem State.emit_clkWarn (e : Event) : (s.emit e).clkWarn = s.clkWarn := rfl
@[simp] theorem State.emit_ch (e : Event) : (s.emit e).ch = s.ch := rfl
@[simp] theorem State.emit_cb (e : Event) : (s.emit e).cb = s.cb := rfl
@[simp] theorem State.emit_ctl (e : Event) : (s.emit e).ctl = s.ctl := rfl
@[simp] theorem State.emit_raw (e : Event) : (s.emit e).raw = s.raw := rfl
@[simp] theorem State.emit_mem (e : Event) : (s.emit e).mem = s.mem := rfl
@[simp] theorem State.emit_trace (e : Event) : (s.emit e).trace = s.trace ++ [e] := rfl
@[simp] theorem State.emit_pending (e : Event) : (s.emit e).pending = s.pending := rfl
@[simp] theorem State.emit_dmaAnswers (e : Event) : (s.emit e).dmaAnswers = s.dmaAnswers := rfl
@[simp] theorem State.emit_rxEntries (e : Event) : (s.emit e).rxEntries = s.rxEntries := rfl
@[simp] theorem State.emit_draws (e : Event) : (s.emit e).draws = s.draws := rfl

/-! ### `finish` -/

@[simp] theorem State.finish_params (c : ResultCode) : (s.finish c).params = s.params := rfl
@[simp] theorem State.finish_x0 (c : ResultCode) : (s.finish c).x0 = s.x0 := rfl
@[simp] theorem State.finish_x1 (c : ResultCode) : (s.finish c).x1 = s.x1 := rfl
@[simp] theorem State.finish_x2 (c : ResultCode) : (s.finish c).x2 = s.x2 := rfl
@[simp] theorem State.finish_x3 (c : ResultCode) : (s.finish c).x3 = s.x3 := rfl
@[simp] theorem State.finish_x4 (c : ResultCode) : (s.finish c).x4 = s.x4 := rfl
@[simp] theorem State.finish_x5 (c : ResultCode) : (s.finish c).x5 = s.x5 := rfl
@[simp] theorem State.finish_cmd (c : ResultCode) : (s.finish c).cmd = s.cmd := rfl
@[simp] theorem State.finish_res (c : ResultCode) : (s.finish c).res = c.word := rfl
@[simp] theorem State.finish_cfg (c : ResultCode) : (s.finish c).cfg = s.cfg := rfl
@[simp] theorem State.finish_cfgValid (c : ResultCode) : (s.finish c).cfgValid = s.cfgValid := rfl
@[simp] theorem State.finish_clkDiv (c : ResultCode) : (s.finish c).clkDiv = s.clkDiv := rfl
@[simp] theorem State.finish_wss (c : ResultCode) : (s.finish c).wss = s.wss := rfl
@[simp] theorem State.finish_clkEn (c : ResultCode) : (s.finish c).clkEn = s.clkEn := rfl
@[simp] theorem State.finish_achievedBclk (c : ResultCode) : (s.finish c).achievedBclk = s.achievedBclk := rfl
@[simp] theorem State.finish_clkWarn (c : ResultCode) : (s.finish c).clkWarn = s.clkWarn := rfl
@[simp] theorem State.finish_ch (c : ResultCode) : (s.finish c).ch = s.ch := rfl
@[simp] theorem State.finish_cb (c : ResultCode) : (s.finish c).cb = s.cb := rfl
@[simp] theorem State.finish_ctl (c : ResultCode) : (s.finish c).ctl = s.ctl := rfl
@[simp] theorem State.finish_raw (c : ResultCode) : (s.finish c).raw = s.raw := rfl
@[simp] theorem State.finish_mem (c : ResultCode) : (s.finish c).mem = s.mem := rfl
@[simp] theorem State.finish_trace (c : ResultCode) : (s.finish c).trace = s.trace ++ [.result c] := rfl
@[simp] theorem State.finish_pending (c : ResultCode) : (s.finish c).pending = s.pending := rfl
@[simp] theorem State.finish_dmaAnswers (c : ResultCode) : (s.finish c).dmaAnswers = s.dmaAnswers := rfl
@[simp] theorem State.finish_rxEntries (c : ResultCode) : (s.finish c).rxEntries = s.rxEntries := rfl
@[simp] theorem State.finish_draws (c : ResultCode) : (s.finish c).draws = s.draws := rfl

/-! ### `finishWith` -/

@[simp] theorem State.finishWith_params (c : ResultCode) (i : Word) : (s.finishWith c i).params = s.params := rfl
@[simp] theorem State.finishWith_x0 (c : ResultCode) (i : Word) : (s.finishWith c i).x0 = s.x0 := rfl
@[simp] theorem State.finishWith_x1 (c : ResultCode) (i : Word) : (s.finishWith c i).x1 = s.x1 := rfl
@[simp] theorem State.finishWith_x2 (c : ResultCode) (i : Word) : (s.finishWith c i).x2 = s.x2 := rfl
@[simp] theorem State.finishWith_x3 (c : ResultCode) (i : Word) : (s.finishWith c i).x3 = i := rfl
@[simp] theorem State.finishWith_x4 (c : ResultCode) (i : Word) : (s.finishWith c i).x4 = s.x4 := rfl
@[simp] theorem State.finishWith_x5 (c : ResultCode) (i : Word) : (s.finishWith c i).x5 = s.x5 := rfl
@[simp] theorem State.finishWith_cmd (c : ResultCode) (i : Word) : (s.finishWith c i).cmd = s.cmd := rfl
@[simp] theorem State.finishWith_res (c : ResultCode) (i : Word) : (s.finishWith c i).res = c.word := rfl
@[simp] theorem State.finishWith_cfg (c : ResultCode) (i : Word) : (s.finishWith c i).cfg = s.cfg := rfl
@[simp] theorem State.finishWith_cfgValid (c : ResultCode) (i : Word) :
    (s.finishWith c i).cfgValid = s.cfgValid := rfl
@[simp] theorem State.finishWith_clkDiv (c : ResultCode) (i : Word) : (s.finishWith c i).clkDiv = s.clkDiv := rfl
@[simp] theorem State.finishWith_wss (c : ResultCode) (i : Word) : (s.finishWith c i).wss = s.wss := rfl
@[simp] theorem State.finishWith_clkEn (c : ResultCode) (i : Word) : (s.finishWith c i).clkEn = s.clkEn := rfl
@[simp] theorem State.finishWith_achievedBclk (c : ResultCode) (i : Word) :
    (s.finishWith c i).achievedBclk = s.achievedBclk := rfl
@[simp] theorem State.finishWith_clkWarn (c : ResultCode) (i : Word) : (s.finishWith c i).clkWarn = s.clkWarn := rfl
@[simp] theorem State.finishWith_ch (c : ResultCode) (i : Word) : (s.finishWith c i).ch = s.ch := rfl
@[simp] theorem State.finishWith_cb (c : ResultCode) (i : Word) : (s.finishWith c i).cb = s.cb := rfl
@[simp] theorem State.finishWith_ctl (c : ResultCode) (i : Word) : (s.finishWith c i).ctl = s.ctl := rfl
@[simp] theorem State.finishWith_raw (c : ResultCode) (i : Word) : (s.finishWith c i).raw = s.raw := rfl
@[simp] theorem State.finishWith_mem (c : ResultCode) (i : Word) : (s.finishWith c i).mem = s.mem := rfl
@[simp] theorem State.finishWith_trace (c : ResultCode) (i : Word) :
    (s.finishWith c i).trace = s.trace ++ [.result c] := rfl
@[simp] theorem State.finishWith_pending (c : ResultCode) (i : Word) : (s.finishWith c i).pending = s.pending := rfl
@[simp] theorem State.finishWith_dmaAnswers (c : ResultCode) (i : Word) :
    (s.finishWith c i).dmaAnswers = s.dmaAnswers := rfl
@[simp] theorem State.finishWith_rxEntries (c : ResultCode) (i : Word) :
    (s.finishWith c i).rxEntries = s.rxEntries := rfl
@[simp] theorem State.finishWith_draws (c : ResultCode) (i : Word) : (s.finishWith c i).draws = s.draws := rfl

/-! ### `memWrite` -/

@[simp] theorem State.memWrite_params (a n v : Nat) : (s.memWrite a n v).params = s.params := rfl
@[simp] theorem State.memWrite_x0 (a n v : Nat) : (s.memWrite a n v).x0 = s.x0 := rfl
@[simp] theorem State.memWrite_x1 (a n v : Nat) : (s.memWrite a n v).x1 = s.x1 := rfl
@[simp] theorem State.memWrite_x2 (a n v : Nat) : (s.memWrite a n v).x2 = s.x2 := rfl
@[simp] theorem State.memWrite_x3 (a n v : Nat) : (s.memWrite a n v).x3 = s.x3 := rfl
@[simp] theorem State.memWrite_x4 (a n v : Nat) : (s.memWrite a n v).x4 = s.x4 := rfl
@[simp] theorem State.memWrite_x5 (a n v : Nat) : (s.memWrite a n v).x5 = s.x5 := rfl
@[simp] theorem State.memWrite_cmd (a n v : Nat) : (s.memWrite a n v).cmd = s.cmd := rfl
@[simp] theorem State.memWrite_res (a n v : Nat) : (s.memWrite a n v).res = s.res := rfl
@[simp] theorem State.memWrite_cfg (a n v : Nat) : (s.memWrite a n v).cfg = s.cfg := rfl
@[simp] theorem State.memWrite_cfgValid (a n v : Nat) : (s.memWrite a n v).cfgValid = s.cfgValid := rfl
@[simp] theorem State.memWrite_clkDiv (a n v : Nat) : (s.memWrite a n v).clkDiv = s.clkDiv := rfl
@[simp] theorem State.memWrite_wss (a n v : Nat) : (s.memWrite a n v).wss = s.wss := rfl
@[simp] theorem State.memWrite_clkEn (a n v : Nat) : (s.memWrite a n v).clkEn = s.clkEn := rfl
@[simp] theorem State.memWrite_achievedBclk (a n v : Nat) : (s.memWrite a n v).achievedBclk = s.achievedBclk := rfl
@[simp] theorem State.memWrite_clkWarn (a n v : Nat) : (s.memWrite a n v).clkWarn = s.clkWarn := rfl
@[simp] theorem State.memWrite_ch (a n v : Nat) : (s.memWrite a n v).ch = s.ch := rfl
@[simp] theorem State.memWrite_cb (a n v : Nat) : (s.memWrite a n v).cb = s.cb := rfl
@[simp] theorem State.memWrite_ctl (a n v : Nat) : (s.memWrite a n v).ctl = s.ctl := rfl
@[simp] theorem State.memWrite_raw (a n v : Nat) : (s.memWrite a n v).raw = s.raw := rfl
@[simp] theorem State.memWrite_mem (a n v : Nat) :
    (s.memWrite a n v).mem = s.mem.storeBytes a (inByteOrder s.params.spec.byteOrder (bytesOfValue n v)) := rfl
@[simp] theorem State.memWrite_trace (a n v : Nat) : (s.memWrite a n v).trace = s.trace := rfl
@[simp] theorem State.memWrite_pending (a n v : Nat) : (s.memWrite a n v).pending = s.pending := rfl
@[simp] theorem State.memWrite_dmaAnswers (a n v : Nat) : (s.memWrite a n v).dmaAnswers = s.dmaAnswers := rfl
@[simp] theorem State.memWrite_rxEntries (a n v : Nat) : (s.memWrite a n v).rxEntries = s.rxEntries := rfl
@[simp] theorem State.memWrite_draws (a n v : Nat) : (s.memWrite a n v).draws = s.draws := rfl

/-! ### `wr` -/

@[simp] theorem State.wr_params (d : Dir) (i v : Nat) : (s.wr d i v).params = s.params := rfl
@[simp] theorem State.wr_x0 (d : Dir) (i v : Nat) : (s.wr d i v).x0 = s.x0 := rfl
@[simp] theorem State.wr_x1 (d : Dir) (i v : Nat) : (s.wr d i v).x1 = s.x1 := rfl
@[simp] theorem State.wr_x2 (d : Dir) (i v : Nat) : (s.wr d i v).x2 = s.x2 := rfl
@[simp] theorem State.wr_x3 (d : Dir) (i v : Nat) : (s.wr d i v).x3 = s.x3 := rfl
@[simp] theorem State.wr_x4 (d : Dir) (i v : Nat) : (s.wr d i v).x4 = s.x4 := rfl
@[simp] theorem State.wr_x5 (d : Dir) (i v : Nat) : (s.wr d i v).x5 = s.x5 := rfl
@[simp] theorem State.wr_cmd (d : Dir) (i v : Nat) : (s.wr d i v).cmd = s.cmd := rfl
@[simp] theorem State.wr_res (d : Dir) (i v : Nat) : (s.wr d i v).res = s.res := rfl
@[simp] theorem State.wr_cfg (d : Dir) (i v : Nat) : (s.wr d i v).cfg = s.cfg := rfl
@[simp] theorem State.wr_cfgValid (d : Dir) (i v : Nat) : (s.wr d i v).cfgValid = s.cfgValid := rfl
@[simp] theorem State.wr_clkDiv (d : Dir) (i v : Nat) : (s.wr d i v).clkDiv = s.clkDiv := rfl
@[simp] theorem State.wr_wss (d : Dir) (i v : Nat) : (s.wr d i v).wss = s.wss := rfl
@[simp] theorem State.wr_clkEn (d : Dir) (i v : Nat) : (s.wr d i v).clkEn = s.clkEn := rfl
@[simp] theorem State.wr_achievedBclk (d : Dir) (i v : Nat) : (s.wr d i v).achievedBclk = s.achievedBclk := rfl
@[simp] theorem State.wr_clkWarn (d : Dir) (i v : Nat) : (s.wr d i v).clkWarn = s.clkWarn := rfl
@[simp] theorem State.wr_ch (d : Dir) (i v : Nat) : (s.wr d i v).ch = s.ch := rfl
@[simp] theorem State.wr_cb (d : Dir) (i v : Nat) : (s.wr d i v).cb = s.cb := rfl
@[simp] theorem State.wr_ctl (d : Dir) (i v : Nat) : (s.wr d i v).ctl = s.ctl := rfl
@[simp] theorem State.wr_raw (d : Dir) (i v : Nat) : (s.wr d i v).raw = s.raw := rfl
@[simp] theorem State.wr_mem (d : Dir) (i v : Nat) :
    (s.wr d i v).mem = s.mem.storeBytes (s.sampleAddr d i) (inByteOrder s.params.spec.byteOrder (bytesOfValue s.bps v)) := rfl
@[simp] theorem State.wr_trace (d : Dir) (i v : Nat) : (s.wr d i v).trace = s.trace := rfl
@[simp] theorem State.wr_pending (d : Dir) (i v : Nat) : (s.wr d i v).pending = s.pending := rfl
@[simp] theorem State.wr_dmaAnswers (d : Dir) (i v : Nat) : (s.wr d i v).dmaAnswers = s.dmaAnswers := rfl
@[simp] theorem State.wr_rxEntries (d : Dir) (i v : Nat) : (s.wr d i v).rxEntries = s.rxEntries := rfl
@[simp] theorem State.wr_draws (d : Dir) (i v : Nat) : (s.wr d i v).draws = s.draws := rfl

/-! ### `ovrClr` -/

@[simp] theorem State.ovrClr_params (d : Dir) : (s.ovrClr d).params = s.params := rfl
@[simp] theorem State.ovrClr_x0 (d : Dir) : (s.ovrClr d).x0 = s.x0 := rfl
@[simp] theorem State.ovrClr_x1 (d : Dir) : (s.ovrClr d).x1 = s.x1 := rfl
@[simp] theorem State.ovrClr_x2 (d : Dir) : (s.ovrClr d).x2 = s.x2 := rfl
@[simp] theorem State.ovrClr_x3 (d : Dir) : (s.ovrClr d).x3 = s.x3 := rfl
@[simp] theorem State.ovrClr_x4 (d : Dir) : (s.ovrClr d).x4 = s.x4 := rfl
@[simp] theorem State.ovrClr_x5 (d : Dir) : (s.ovrClr d).x5 = s.x5 := rfl
@[simp] theorem State.ovrClr_cmd (d : Dir) : (s.ovrClr d).cmd = s.cmd := rfl
@[simp] theorem State.ovrClr_res (d : Dir) : (s.ovrClr d).res = s.res := rfl
@[simp] theorem State.ovrClr_cfg (d : Dir) : (s.ovrClr d).cfg = s.cfg := rfl
@[simp] theorem State.ovrClr_cfgValid (d : Dir) : (s.ovrClr d).cfgValid = s.cfgValid := rfl
@[simp] theorem State.ovrClr_clkDiv (d : Dir) : (s.ovrClr d).clkDiv = s.clkDiv := rfl
@[simp] theorem State.ovrClr_wss (d : Dir) : (s.ovrClr d).wss = s.wss := rfl
@[simp] theorem State.ovrClr_clkEn (d : Dir) : (s.ovrClr d).clkEn = s.clkEn := rfl
@[simp] theorem State.ovrClr_achievedBclk (d : Dir) : (s.ovrClr d).achievedBclk = s.achievedBclk := rfl
@[simp] theorem State.ovrClr_clkWarn (d : Dir) : (s.ovrClr d).clkWarn = s.clkWarn := rfl
@[simp] theorem State.ovrClr_ch (d : Dir) : (s.ovrClr d).ch = s.ch := rfl
@[simp] theorem State.ovrClr_cb (d : Dir) : (s.ovrClr d).cb = s.cb := rfl
@[simp] theorem State.ovrClr_ctl (d : Dir) : (s.ovrClr d).ctl = s.ctl := rfl
@[simp] theorem State.ovrClr_raw (d : Dir) : (s.ovrClr d).raw = s.raw.set d { s.raw.get d with ovr := false } := rfl
@[simp] theorem State.ovrClr_mem (d : Dir) : (s.ovrClr d).mem = s.mem := rfl
@[simp] theorem State.ovrClr_trace (d : Dir) : (s.ovrClr d).trace = s.trace ++ [.ovrClr d] := rfl
@[simp] theorem State.ovrClr_pending (d : Dir) : (s.ovrClr d).pending = s.pending := rfl
@[simp] theorem State.ovrClr_dmaAnswers (d : Dir) : (s.ovrClr d).dmaAnswers = s.dmaAnswers := rfl
@[simp] theorem State.ovrClr_rxEntries (d : Dir) : (s.ovrClr d).rxEntries = s.rxEntries := rfl
@[simp] theorem State.ovrClr_draws (d : Dir) : (s.ovrClr d).draws = s.draws := rfl

/-! ### `enterIrq` -/

@[simp] theorem State.enterIrq_params (r : BitVec 4) : (s.enterIrq r).params = s.params := rfl
@[simp] theorem State.enterIrq_x0 (r : BitVec 4) : (s.enterIrq r).x0 = s.x0 := rfl
@[simp] theorem State.enterIrq_x1 (r : BitVec 4) : (s.enterIrq r).x1 = s.x1 := rfl
@[simp] theorem State.enterIrq_x2 (r : BitVec 4) : (s.enterIrq r).x2 = s.x2 := rfl
@[simp] theorem State.enterIrq_x3 (r : BitVec 4) : (s.enterIrq r).x3 = s.x3 := rfl
@[simp] theorem State.enterIrq_x4 (r : BitVec 4) : (s.enterIrq r).x4 = s.x4 := rfl
@[simp] theorem State.enterIrq_x5 (r : BitVec 4) : (s.enterIrq r).x5 = s.x5 := rfl
@[simp] theorem State.enterIrq_cmd (r : BitVec 4) : (s.enterIrq r).cmd = s.cmd := rfl
@[simp] theorem State.enterIrq_res (r : BitVec 4) : (s.enterIrq r).res = s.res := rfl
@[simp] theorem State.enterIrq_cfg (r : BitVec 4) : (s.enterIrq r).cfg = s.cfg := rfl
@[simp] theorem State.enterIrq_cfgValid (r : BitVec 4) : (s.enterIrq r).cfgValid = s.cfgValid := rfl
@[simp] theorem State.enterIrq_clkDiv (r : BitVec 4) : (s.enterIrq r).clkDiv = s.clkDiv := rfl
@[simp] theorem State.enterIrq_wss (r : BitVec 4) : (s.enterIrq r).wss = s.wss := rfl
@[simp] theorem State.enterIrq_clkEn (r : BitVec 4) : (s.enterIrq r).clkEn = s.clkEn := rfl
@[simp] theorem State.enterIrq_achievedBclk (r : BitVec 4) : (s.enterIrq r).achievedBclk = s.achievedBclk := rfl
@[simp] theorem State.enterIrq_clkWarn (r : BitVec 4) : (s.enterIrq r).clkWarn = s.clkWarn := rfl
@[simp] theorem State.enterIrq_ch (r : BitVec 4) : (s.enterIrq r).ch = s.ch := rfl
@[simp] theorem State.enterIrq_cb (r : BitVec 4) : (s.enterIrq r).cb = s.cb := rfl
@[simp] theorem State.enterIrq_ctl (r : BitVec 4) : (s.enterIrq r).ctl = s.ctl := rfl
@[simp] theorem State.enterIrq_raw (r : BitVec 4) : (s.enterIrq r).raw = rawOfWord r := rfl
@[simp] theorem State.enterIrq_mem (r : BitVec 4) : (s.enterIrq r).mem = s.mem := rfl
@[simp] theorem State.enterIrq_trace (r : BitVec 4) : (s.enterIrq r).trace = s.trace := rfl
@[simp] theorem State.enterIrq_pending (r : BitVec 4) : (s.enterIrq r).pending = s.pending := rfl
@[simp] theorem State.enterIrq_dmaAnswers (r : BitVec 4) : (s.enterIrq r).dmaAnswers = s.dmaAnswers := rfl
@[simp] theorem State.enterIrq_rxEntries (r : BitVec 4) : (s.enterIrq r).rxEntries = s.rxEntries := rfl
@[simp] theorem State.enterIrq_draws (r : BitVec 4) : (s.enterIrq r).draws = s.draws := rfl

/-! ### `advance` -/

@[simp] theorem State.advance_params (d : Dir) (l : FrameLayout) : (s.advance d l).params = s.params := rfl
@[simp] theorem State.advance_x0 (d : Dir) (l : FrameLayout) : (s.advance d l).x0 = s.x0 := rfl
@[simp] theorem State.advance_x1 (d : Dir) (l : FrameLayout) : (s.advance d l).x1 = s.x1 := rfl
@[simp] theorem State.advance_x2 (d : Dir) (l : FrameLayout) : (s.advance d l).x2 = s.x2 := rfl
@[simp] theorem State.advance_x3 (d : Dir) (l : FrameLayout) : (s.advance d l).x3 = s.x3 := rfl
@[simp] theorem State.advance_x4 (d : Dir) (l : FrameLayout) : (s.advance d l).x4 = s.x4 := rfl
@[simp] theorem State.advance_x5 (d : Dir) (l : FrameLayout) : (s.advance d l).x5 = s.x5 := rfl
@[simp] theorem State.advance_cmd (d : Dir) (l : FrameLayout) : (s.advance d l).cmd = s.cmd := rfl
@[simp] theorem State.advance_res (d : Dir) (l : FrameLayout) : (s.advance d l).res = s.res := rfl
@[simp] theorem State.advance_cfg (d : Dir) (l : FrameLayout) : (s.advance d l).cfg = s.cfg := rfl
@[simp] theorem State.advance_cfgValid (d : Dir) (l : FrameLayout) : (s.advance d l).cfgValid = s.cfgValid := rfl
@[simp] theorem State.advance_clkDiv (d : Dir) (l : FrameLayout) : (s.advance d l).clkDiv = s.clkDiv := rfl
@[simp] theorem State.advance_wss (d : Dir) (l : FrameLayout) : (s.advance d l).wss = s.wss := rfl
@[simp] theorem State.advance_clkEn (d : Dir) (l : FrameLayout) : (s.advance d l).clkEn = s.clkEn := rfl
@[simp] theorem State.advance_achievedBclk (d : Dir) (l : FrameLayout) :
    (s.advance d l).achievedBclk = s.achievedBclk := rfl
@[simp] theorem State.advance_clkWarn (d : Dir) (l : FrameLayout) : (s.advance d l).clkWarn = s.clkWarn := rfl
@[simp] theorem State.advance_ch (d : Dir) (l : FrameLayout) :
    (s.advance d l).ch = s.ch.set d { s.ch.get d with index := (s.ch.get d).index + indexStep l, count := (s.ch.get d).count + countStep l } := rfl
@[simp] theorem State.advance_cb (d : Dir) (l : FrameLayout) : (s.advance d l).cb = s.cb := rfl
@[simp] theorem State.advance_ctl (d : Dir) (l : FrameLayout) : (s.advance d l).ctl = s.ctl := rfl
@[simp] theorem State.advance_raw (d : Dir) (l : FrameLayout) : (s.advance d l).raw = s.raw := rfl
@[simp] theorem State.advance_mem (d : Dir) (l : FrameLayout) : (s.advance d l).mem = s.mem := rfl
@[simp] theorem State.advance_trace (d : Dir) (l : FrameLayout) : (s.advance d l).trace = s.trace := rfl
@[simp] theorem State.advance_pending (d : Dir) (l : FrameLayout) : (s.advance d l).pending = s.pending := rfl
@[simp] theorem State.advance_dmaAnswers (d : Dir) (l : FrameLayout) :
    (s.advance d l).dmaAnswers = s.dmaAnswers := rfl
@[simp] theorem State.advance_rxEntries (d : Dir) (l : FrameLayout) : (s.advance d l).rxEntries = s.rxEntries := rfl
@[simp] theorem State.advance_draws (d : Dir) (l : FrameLayout) : (s.advance d l).draws = s.draws := rfl

/-! ### `dmaAnswered` -/

@[simp] theorem State.dmaAnswered_params :
    (s.dmaAnswered).params = s.params := by unfold State.dmaAnswered; split <;> simp_all
@[simp] theorem State.dmaAnswered_x0 : (s.dmaAnswered).x0 = s.x0 := by unfold State.dmaAnswered; split <;> simp_all
@[simp] theorem State.dmaAnswered_x1 : (s.dmaAnswered).x1 = s.x1 := by unfold State.dmaAnswered; split <;> simp_all
@[simp] theorem State.dmaAnswered_x2 : (s.dmaAnswered).x2 = s.x2 := by unfold State.dmaAnswered; split <;> simp_all
@[simp] theorem State.dmaAnswered_x3 : (s.dmaAnswered).x3 = s.x3 := by unfold State.dmaAnswered; split <;> simp_all
@[simp] theorem State.dmaAnswered_x4 : (s.dmaAnswered).x4 = s.x4 := by unfold State.dmaAnswered; split <;> simp_all
@[simp] theorem State.dmaAnswered_x5 : (s.dmaAnswered).x5 = s.x5 := by unfold State.dmaAnswered; split <;> simp_all
@[simp] theorem State.dmaAnswered_cmd : (s.dmaAnswered).cmd = s.cmd := by unfold State.dmaAnswered; split <;> simp_all
@[simp] theorem State.dmaAnswered_res : (s.dmaAnswered).res = s.res := by unfold State.dmaAnswered; split <;> simp_all
@[simp] theorem State.dmaAnswered_cfg : (s.dmaAnswered).cfg = s.cfg := by unfold State.dmaAnswered; split <;> simp_all
@[simp] theorem State.dmaAnswered_cfgValid :
    (s.dmaAnswered).cfgValid = s.cfgValid := by unfold State.dmaAnswered; split <;> simp_all
@[simp] theorem State.dmaAnswered_clkDiv :
    (s.dmaAnswered).clkDiv = s.clkDiv := by unfold State.dmaAnswered; split <;> simp_all
@[simp] theorem State.dmaAnswered_wss : (s.dmaAnswered).wss = s.wss := by unfold State.dmaAnswered; split <;> simp_all
@[simp] theorem State.dmaAnswered_clkEn :
    (s.dmaAnswered).clkEn = s.clkEn := by unfold State.dmaAnswered; split <;> simp_all
@[simp] theorem State.dmaAnswered_achievedBclk :
    (s.dmaAnswered).achievedBclk = s.achievedBclk := by unfold State.dmaAnswered; split <;> simp_all
@[simp] theorem State.dmaAnswered_clkWarn :
    (s.dmaAnswered).clkWarn = s.clkWarn := by unfold State.dmaAnswered; split <;> simp_all
@[simp] theorem State.dmaAnswered_ch : (s.dmaAnswered).ch = s.ch := by unfold State.dmaAnswered; split <;> simp_all
@[simp] theorem State.dmaAnswered_cb : (s.dmaAnswered).cb = s.cb := by unfold State.dmaAnswered; split <;> simp_all
@[simp] theorem State.dmaAnswered_ctl : (s.dmaAnswered).ctl = s.ctl := by unfold State.dmaAnswered; split <;> simp_all
@[simp] theorem State.dmaAnswered_raw : (s.dmaAnswered).raw = s.raw := by unfold State.dmaAnswered; split <;> simp_all
@[simp] theorem State.dmaAnswered_mem : (s.dmaAnswered).mem = s.mem := by unfold State.dmaAnswered; split <;> simp_all
@[simp] theorem State.dmaAnswered_trace :
    (s.dmaAnswered).trace = s.trace := by unfold State.dmaAnswered; split <;> simp_all
@[simp] theorem State.dmaAnswered_pending :
    (s.dmaAnswered).pending = s.pending := by unfold State.dmaAnswered; split <;> simp_all
@[simp] theorem State.dmaAnswered_dmaAnswers :
    (s.dmaAnswered).dmaAnswers = s.dmaAnswers.tail := by unfold State.dmaAnswered; split <;> simp_all
@[simp] theorem State.dmaAnswered_rxEntries :
    (s.dmaAnswered).rxEntries = s.rxEntries := by unfold State.dmaAnswered; split <;> simp_all
@[simp] theorem State.dmaAnswered_draws :
    (s.dmaAnswered).draws = s.draws + (if s.dmaAnswers = [] then 1 else 0) := by unfold State.dmaAnswered; split <;> simp_all

/-! ### `dmaRequest` -/

@[simp] theorem State.dmaRequest_params (ev : Word → Event) :
    (s.dmaRequest ev).params = s.params := by simp [State.dmaRequest]
@[simp] theorem State.dmaRequest_x0 (ev : Word → Event) : (s.dmaRequest ev).x0 = s.x0 := by simp [State.dmaRequest]
@[simp] theorem State.dmaRequest_x1 (ev : Word → Event) : (s.dmaRequest ev).x1 = s.x1 := by simp [State.dmaRequest]
@[simp] theorem State.dmaRequest_x2 (ev : Word → Event) : (s.dmaRequest ev).x2 = s.x2 := by simp [State.dmaRequest]
@[simp] theorem State.dmaRequest_x3 (ev : Word → Event) : (s.dmaRequest ev).x3 = s.x3 := by simp [State.dmaRequest]
@[simp] theorem State.dmaRequest_x4 (ev : Word → Event) : (s.dmaRequest ev).x4 = s.x4 := by simp [State.dmaRequest]
@[simp] theorem State.dmaRequest_x5 (ev : Word → Event) : (s.dmaRequest ev).x5 = s.x5 := by simp [State.dmaRequest]
@[simp] theorem State.dmaRequest_cmd (ev : Word → Event) : (s.dmaRequest ev).cmd = s.cmd := by simp [State.dmaRequest]
@[simp] theorem State.dmaRequest_res (ev : Word → Event) : (s.dmaRequest ev).res = s.res := by simp [State.dmaRequest]
@[simp] theorem State.dmaRequest_cfg (ev : Word → Event) : (s.dmaRequest ev).cfg = s.cfg := by simp [State.dmaRequest]
@[simp] theorem State.dmaRequest_cfgValid (ev : Word → Event) :
    (s.dmaRequest ev).cfgValid = s.cfgValid := by simp [State.dmaRequest]
@[simp] theorem State.dmaRequest_clkDiv (ev : Word → Event) :
    (s.dmaRequest ev).clkDiv = s.clkDiv := by simp [State.dmaRequest]
@[simp] theorem State.dmaRequest_wss (ev : Word → Event) : (s.dmaRequest ev).wss = s.wss := by simp [State.dmaRequest]
@[simp] theorem State.dmaRequest_clkEn (ev : Word → Event) :
    (s.dmaRequest ev).clkEn = s.clkEn := by simp [State.dmaRequest]
@[simp] theorem State.dmaRequest_achievedBclk (ev : Word → Event) :
    (s.dmaRequest ev).achievedBclk = s.achievedBclk := by simp [State.dmaRequest]
@[simp] theorem State.dmaRequest_clkWarn (ev : Word → Event) :
    (s.dmaRequest ev).clkWarn = s.clkWarn := by simp [State.dmaRequest]
@[simp] theorem State.dmaRequest_ch (ev : Word → Event) : (s.dmaRequest ev).ch = s.ch := by simp [State.dmaRequest]
@[simp] theorem State.dmaRequest_cb (ev : Word → Event) : (s.dmaRequest ev).cb = s.cb := by simp [State.dmaRequest]
@[simp] theorem State.dmaRequest_ctl (ev : Word → Event) : (s.dmaRequest ev).ctl = s.ctl := by simp [State.dmaRequest]
@[simp] theorem State.dmaRequest_raw (ev : Word → Event) : (s.dmaRequest ev).raw = s.raw := by simp [State.dmaRequest]
@[simp] theorem State.dmaRequest_mem (ev : Word → Event) : (s.dmaRequest ev).mem = s.mem := by simp [State.dmaRequest]
@[simp] theorem State.dmaRequest_trace (ev : Word → Event) :
    (s.dmaRequest ev).trace = s.trace ++ [ev s.dmaAnswer] := by simp [State.dmaRequest]
@[simp] theorem State.dmaRequest_pending (ev : Word → Event) :
    (s.dmaRequest ev).pending = s.pending := by simp [State.dmaRequest]
@[simp] theorem State.dmaRequest_dmaAnswers (ev : Word → Event) :
    (s.dmaRequest ev).dmaAnswers = s.dmaAnswers.tail := by simp [State.dmaRequest]
@[simp] theorem State.dmaRequest_rxEntries (ev : Word → Event) :
    (s.dmaRequest ev).rxEntries = s.rxEntries := by simp [State.dmaRequest]
@[simp] theorem State.dmaRequest_draws (ev : Word → Event) :
    (s.dmaRequest ev).draws = s.draws + (if s.dmaAnswers = [] then 1 else 0) := by simp [State.dmaRequest]

/-! ### `rxPopped` -/

@[simp] theorem State.rxPopped_params : (s.rxPopped).params = s.params := by unfold State.rxPopped; split <;> simp_all
@[simp] theorem State.rxPopped_x0 : (s.rxPopped).x0 = s.x0 := by unfold State.rxPopped; split <;> simp_all
@[simp] theorem State.rxPopped_x1 : (s.rxPopped).x1 = s.x1 := by unfold State.rxPopped; split <;> simp_all
@[simp] theorem State.rxPopped_x2 : (s.rxPopped).x2 = s.x2 := by unfold State.rxPopped; split <;> simp_all
@[simp] theorem State.rxPopped_x3 : (s.rxPopped).x3 = s.x3 := by unfold State.rxPopped; split <;> simp_all
@[simp] theorem State.rxPopped_x4 : (s.rxPopped).x4 = s.x4 := by unfold State.rxPopped; split <;> simp_all
@[simp] theorem State.rxPopped_x5 : (s.rxPopped).x5 = s.x5 := by unfold State.rxPopped; split <;> simp_all
@[simp] theorem State.rxPopped_cmd : (s.rxPopped).cmd = s.cmd := by unfold State.rxPopped; split <;> simp_all
@[simp] theorem State.rxPopped_res : (s.rxPopped).res = s.res := by unfold State.rxPopped; split <;> simp_all
@[simp] theorem State.rxPopped_cfg : (s.rxPopped).cfg = s.cfg := by unfold State.rxPopped; split <;> simp_all
@[simp] theorem State.rxPopped_cfgValid :
    (s.rxPopped).cfgValid = s.cfgValid := by unfold State.rxPopped; split <;> simp_all
@[simp] theorem State.rxPopped_clkDiv : (s.rxPopped).clkDiv = s.clkDiv := by unfold State.rxPopped; split <;> simp_all
@[simp] theorem State.rxPopped_wss : (s.rxPopped).wss = s.wss := by unfold State.rxPopped; split <;> simp_all
@[simp] theorem State.rxPopped_clkEn : (s.rxPopped).clkEn = s.clkEn := by unfold State.rxPopped; split <;> simp_all
@[simp] theorem State.rxPopped_achievedBclk :
    (s.rxPopped).achievedBclk = s.achievedBclk := by unfold State.rxPopped; split <;> simp_all
@[simp] theorem State.rxPopped_clkWarn :
    (s.rxPopped).clkWarn = s.clkWarn := by unfold State.rxPopped; split <;> simp_all
@[simp] theorem State.rxPopped_ch : (s.rxPopped).ch = s.ch := by unfold State.rxPopped; split <;> simp_all
@[simp] theorem State.rxPopped_cb : (s.rxPopped).cb = s.cb := by unfold State.rxPopped; split <;> simp_all
@[simp] theorem State.rxPopped_ctl : (s.rxPopped).ctl = s.ctl := by unfold State.rxPopped; split <;> simp_all
@[simp] theorem State.rxPopped_raw : (s.rxPopped).raw = s.raw := by unfold State.rxPopped; split <;> simp_all
@[simp] theorem State.rxPopped_mem : (s.rxPopped).mem = s.mem := by unfold State.rxPopped; split <;> simp_all
@[simp] theorem State.rxPopped_trace : (s.rxPopped).trace = s.trace := by unfold State.rxPopped; split <;> simp_all
@[simp] theorem State.rxPopped_pending :
    (s.rxPopped).pending = s.pending := by unfold State.rxPopped; split <;> simp_all
@[simp] theorem State.rxPopped_dmaAnswers :
    (s.rxPopped).dmaAnswers = s.dmaAnswers := by unfold State.rxPopped; split <;> simp_all
@[simp] theorem State.rxPopped_rxEntries :
    (s.rxPopped).rxEntries = s.rxEntries.tail := by unfold State.rxPopped; split <;> simp_all
@[simp] theorem State.rxPopped_draws :
    (s.rxPopped).draws = s.draws + (if s.rxEntries = [] then 1 else 0) := by unfold State.rxPopped; split <;> simp_all

/-! ### `rxr` -/

@[simp] theorem State.rxr_params : (s.rxr).params = s.params := by simp [State.rxr]
@[simp] theorem State.rxr_x0 : (s.rxr).x0 = s.x0 := by simp [State.rxr]
@[simp] theorem State.rxr_x1 : (s.rxr).x1 = s.x1 := by simp [State.rxr]
@[simp] theorem State.rxr_x2 : (s.rxr).x2 = s.x2 := by simp [State.rxr]
@[simp] theorem State.rxr_x3 : (s.rxr).x3 = s.x3 := by simp [State.rxr]
@[simp] theorem State.rxr_x4 : (s.rxr).x4 = s.x4 := by simp [State.rxr]
@[simp] theorem State.rxr_x5 : (s.rxr).x5 = s.x5 := by simp [State.rxr]
@[simp] theorem State.rxr_cmd : (s.rxr).cmd = s.cmd := by simp [State.rxr]
@[simp] theorem State.rxr_res : (s.rxr).res = s.res := by simp [State.rxr]
@[simp] theorem State.rxr_cfg : (s.rxr).cfg = s.cfg := by simp [State.rxr]
@[simp] theorem State.rxr_cfgValid : (s.rxr).cfgValid = s.cfgValid := by simp [State.rxr]
@[simp] theorem State.rxr_clkDiv : (s.rxr).clkDiv = s.clkDiv := by simp [State.rxr]
@[simp] theorem State.rxr_wss : (s.rxr).wss = s.wss := by simp [State.rxr]
@[simp] theorem State.rxr_clkEn : (s.rxr).clkEn = s.clkEn := by simp [State.rxr]
@[simp] theorem State.rxr_achievedBclk : (s.rxr).achievedBclk = s.achievedBclk := by simp [State.rxr]
@[simp] theorem State.rxr_clkWarn : (s.rxr).clkWarn = s.clkWarn := by simp [State.rxr]
@[simp] theorem State.rxr_ch : (s.rxr).ch = s.ch := by simp [State.rxr]
@[simp] theorem State.rxr_cb : (s.rxr).cb = s.cb := by simp [State.rxr]
@[simp] theorem State.rxr_ctl : (s.rxr).ctl = s.ctl := by simp [State.rxr]
@[simp] theorem State.rxr_raw : (s.rxr).raw = s.raw := by simp [State.rxr]
@[simp] theorem State.rxr_mem : (s.rxr).mem = s.mem := by simp [State.rxr]
@[simp] theorem State.rxr_trace : (s.rxr).trace = s.trace ++ [.rxr s.rxLeft s.rxRight] := by simp [State.rxr]
@[simp] theorem State.rxr_pending : (s.rxr).pending = s.pending := by simp [State.rxr]
@[simp] theorem State.rxr_dmaAnswers : (s.rxr).dmaAnswers = s.dmaAnswers := by simp [State.rxr]
@[simp] theorem State.rxr_rxEntries : (s.rxr).rxEntries = s.rxEntries.tail := by simp [State.rxr]
@[simp] theorem State.rxr_draws : (s.rxr).draws = s.draws + (if s.rxEntries = [] then 1 else 0) := by simp [State.rxr]

/-- The flags and registers of a direction fit the widths of their labels (10_state.md R35). -/
theorem dirElement_lt {s : State} {d : Dir} {n v w : Nat} (hv : s.dirElement d n = some v)
    (hw : dirElementWidth n = some w) : v < 2 ^ w := by
  rcases n with _ | _ | _ | _ | _ | _ | _ | _ | _ | _ | _ | _ | _ | n
  case succ.succ.succ.succ.succ.succ.succ.succ.succ.succ.succ.succ.succ => cases hv
  all_goals
    cases hv
    cases hw
    first | exact BitVec.isLt _ | exact Bool.toNat_lt _

/-- Every element fits the width of its label (10_state.md R35). -/
theorem element_lt {s : State} {n v w : Nat} (hv : s.element n = some v) (hw : elementWidth n = some w) : v < 2 ^ w := by
  rcases n with _ | _ | _ | _ | _ | _ | _ | _ | _ | n
  case succ.succ.succ.succ.succ.succ.succ.succ.succ =>
    simp only [State.element, elementWidth] at hv hw
    split at hv
    · cases hv
    · rename_i h1
      rw [if_neg h1] at hw
      split at hv
      · rename_i h2
        exact dirElement_lt hv (by rwa [if_pos h2] at hw)
      · rename_i h2
        exact dirElement_lt hv (by rwa [if_neg h2] at hw)
  all_goals
    cases hv
    cases hw <;> first | exact BitVec.isLt _ | exact Bool.toNat_lt _

end Machine

end Sys2Proof
end

