-- ==== Sys2Proof/Laws/Memory.lean ====
section
/-! SUPPORT. The laws of memory: every operation keeps the canonical form, a read after a write gives the value written, and a write leaves every other byte alone. -/

namespace Sys2Proof.Machine

theorem Memory.wfFrom_mono {lo lo' : Nat} (h : lo' ≤ lo) : ∀ {m : Memory}, m.wfFrom lo = true → m.wfFrom lo' = true
  | [], _ => rfl
  | (a, v) :: m, hm => by
    simp only [Memory.wfFrom, Bool.and_eq_true, decide_eq_true_eq] at hm ⊢
    exact ⟨⟨by omega, hm.1.2⟩, hm.2⟩

theorem Memory.wfFrom_store {a : Nat} (v : Byte) (ha : a < addrSpace) :
    ∀ {m : Memory} {lo : Nat}, lo ≤ a → m.wfFrom lo = true → (m.store a v).wfFrom lo = true
  | [], lo, hlo, _ => by simp [Memory.store, Memory.wfFrom, hlo, ha]
  | (b, w) :: m, lo, hlo, hm => by
    simp only [Memory.wfFrom, Bool.and_eq_true, decide_eq_true_eq] at hm
    unfold Memory.store
    split
    · simp only [Memory.wfFrom, Bool.and_eq_true, decide_eq_true_eq]
      exact ⟨⟨hlo, ha⟩, ⟨by omega, hm.1.2⟩, hm.2⟩
    · split
      · subst_vars
        simp only [Memory.wfFrom, Bool.and_eq_true, decide_eq_true_eq]
        exact ⟨⟨hlo, ha⟩, hm.2⟩
      · simp only [Memory.wfFrom, Bool.and_eq_true, decide_eq_true_eq]
        exact ⟨hm.1, Memory.wfFrom_store v ha (by omega) hm.2⟩

/-- A one-byte store keeps the canonical form. -/
theorem Memory.wf_store {m : Memory} {a : Nat} (v : Byte) (ha : a < addrSpace) (h : m.wf = true) :
    (m.store a v).wf = true := Memory.wfFrom_store v ha (Nat.zero_le a) h

/-- A store of any bytes at any address keeps the canonical form. -/
theorem Memory.wf_storeBytes : ∀ (bs : List Byte) {m : Memory} (a : Nat), m.wf = true → (m.storeBytes a bs).wf = true
  | [], _, _, h => h
  | b :: bs, _, a, h => Memory.wf_storeBytes bs (a + 1) (Memory.wf_store b (Nat.mod_lt _ (by decide)) h)

theorem Memory.lookup_store (v : Byte) {a c : Nat} :
    ∀ {m : Memory} {lo : Nat}, m.wfFrom lo = true → (m.store a v).lookup c = if c = a then some v else m.lookup c
  | [], _, _ => by simp [Memory.store, Memory.lookup, eq_comm]
  | (b, w) :: m, lo, hm => by
    simp only [Memory.wfFrom, Bool.and_eq_true, decide_eq_true_eq] at hm
    unfold Memory.store
    split
    · by_cases h : c = a
      · simp [Memory.lookup, h]
      · simp [Memory.lookup, h, Ne.symm h]
    · split
      · rename_i hab
        by_cases h : c = a
        · simp [Memory.lookup, h]
        · simp [Memory.lookup, h, Ne.symm h, ← hab]
      · simp only [Memory.lookup, Memory.lookup_store v hm.2]
        by_cases h : b = c
        · subst h
          have : ¬ b = a := by omega
          simp [this]
        · simp [h]

/-- One byte read after one byte stored, in canonical memory. -/
theorem Memory.read_store {m : Memory} (h : m.wf = true) (a c : Nat) (v : Byte) :
    (m.store a v).read c = if c = a then v else m.read c := by
  unfold Memory.read
  rw [Memory.lookup_store v h]
  split <;> rfl

/-- A byte outside the addresses stored to reads as before. -/
theorem Memory.read_storeBytes_outside (c : Nat) :
    ∀ (bs : List Byte) {m : Memory} (a : Nat), m.wf = true →
      (∀ k, k < bs.length → c ≠ (a + k) % addrSpace) → (m.storeBytes a bs).read c = m.read c
  | [], _, _, _, _ => rfl
  | b :: bs, m, a, h, hc => by
    unfold Memory.storeBytes
    rw [Memory.read_storeBytes_outside c bs (a + 1) (Memory.wf_store b (Nat.mod_lt _ (by decide)) h)]
    · rw [Memory.read_store h, if_neg]
      exact hc 0 (by simp)
    · intro k hk
      have := hc (k + 1) (by simpa using hk)
      rwa [Nat.add_assoc, Nat.add_comm 1 k]

/-- Each byte stored reads back, when the bytes do not wrap onto each other. -/
theorem Memory.read_storeBytes_inside :
    ∀ (bs : List Byte) {m : Memory} (a : Nat), m.wf = true → bs.length ≤ addrSpace →
      ∀ k (hk : k < bs.length), (m.storeBytes a bs).read ((a + k) % addrSpace) = bs[k]
  | b :: bs, m, a, h, hl, k, hk => by
    have hw := Memory.wf_store b (Nat.mod_lt a (by decide : 0 < addrSpace)) h
    unfold Memory.storeBytes
    cases k with
    | zero =>
      rw [Memory.read_storeBytes_outside _ bs (a + 1) hw]
      · simp [Memory.read_store h]
      · intro j hj
        simp only [List.length_cons, addrSpace] at hl ⊢
        omega
    | succ k =>
      have := Memory.read_storeBytes_inside bs (a + 1) hw (by simp at hl; omega) k (by simpa using hk)
      rw [show a + (k + 1) = a + 1 + k by omega, this]
      rfl

@[simp] theorem Memory.length_loadBytes (m : Memory) : ∀ (n a : Nat), (m.loadBytes a n).length = n
  | 0, _ => rfl
  | n + 1, a => by simp [Memory.loadBytes, Memory.length_loadBytes m n]

@[simp] theorem length_bytesOfValue : ∀ (n v : Nat), (bytesOfValue n v).length = n
  | 0, _ => rfl
  | n + 1, v => by simp [bytesOfValue, length_bytesOfValue n]

@[simp] theorem length_inByteOrder (o : ByteOrder) (bs : List Byte) : (inByteOrder o bs).length = bs.length := by
  cases o <;> simp [inByteOrder]

@[simp] theorem inByteOrder_twice (o : ByteOrder) (bs : List Byte) : inByteOrder o (inByteOrder o bs) = bs := by
  cases o <;> simp [inByteOrder]

theorem Memory.getElem_loadBytes (m : Memory) : ∀ (n a k : Nat) (hk : k < (m.loadBytes a n).length),
    (m.loadBytes a n)[k] = m.read ((a + k) % addrSpace)
  | n + 1, a, 0, _ => rfl
  | n + 1, a, k + 1, hk => by
    have := Memory.getElem_loadBytes m n (a + 1) k (by simpa [Memory.loadBytes] using hk)
    simp only [Memory.loadBytes, List.getElem_cons_succ, this]
    rw [show a + 1 + k = a + (k + 1) by omega]

/-- The bytes just stored load back, when they do not wrap onto each other. -/
theorem Memory.loadBytes_storeBytes {m : Memory} (h : m.wf = true) (bs : List Byte) (a : Nat)
    (hl : bs.length ≤ addrSpace) : (m.storeBytes a bs).loadBytes a bs.length = bs := by
  apply List.ext_getElem (by simp)
  intro k h1 h2
  rw [Memory.getElem_loadBytes, Memory.read_storeBytes_inside bs a h hl k h2]

/-- The value of the digits of a number is the number modulo their weight. -/
theorem valueOfBytes_bytesOfValue : ∀ (n v : Nat), valueOfBytes (bytesOfValue n v) = v % 256 ^ n
  | 0, v => by simp [bytesOfValue, valueOfBytes, Nat.mod_one]
  | n + 1, v => by
    show (BitVec.ofNat 8 v).toNat + 256 * valueOfBytes (bytesOfValue n (v / 256)) = _
    rw [valueOfBytes_bytesOfValue n, BitVec.toNat_ofNat, show 256 ^ (n + 1) = 256 * 256 ^ n by ring, Nat.mod_mul]

/-- A number made of `n` bytes is below `256 ^ n`. -/
theorem valueOfBytes_lt : ∀ (bs : List Byte), valueOfBytes bs < 256 ^ bs.length
  | [] => by simp [valueOfBytes]
  | b :: bs => by
    have h1 := valueOfBytes_lt bs
    have h2 := b.isLt
    simp only [valueOfBytes, List.length_cons, Nat.pow_succ]
    omega

/-- `MemWrite` keeps memory canonical. -/
theorem State.memWrite_wf {s : State} (h : s.mem.wf = true) (a n v : Nat) : (s.memWrite a n v).mem.wf = true :=
  Memory.wf_storeBytes _ _ h

/-- A sample write keeps memory canonical. -/
theorem State.wr_wf {s : State} (h : s.mem.wf = true) (d : Dir) (i v : Nat) : (s.wr d i v).mem.wf = true :=
  State.memWrite_wf h _ _ _

end Sys2Proof.Machine
end

