-- ==== Sys2Proof/Laws/Frame.lean ====
section
/-! SUPPORT. What the event operations leave unchanged, said once: `EventFrame` for the whole state, `DirFrame` for the other direction, and that memory is only written by receive frames. -/

namespace Sys2Proof.Machine

/-- What no event operation changes (60_exceptions.md R185 (b), (c); 45_dispatch.md R155 item 5), and that the trace only grows. -/
structure EventFrame (s t : State) : Prop where
  params : t.params = s.params
  x0 : t.x0 = s.x0
  x1 : t.x1 = s.x1
  x2 : t.x2 = s.x2
  x3 : t.x3 = s.x3
  x4 : t.x4 = s.x4
  x5 : t.x5 = s.x5
  cmd : t.cmd = s.cmd
  res : t.res = s.res
  cfg : t.cfg = s.cfg
  cfgValid : t.cfgValid = s.cfgValid
  clkDiv : t.clkDiv = s.clkDiv
  wss : t.wss = s.wss
  clkEn : t.clkEn = s.clkEn
  achievedBclk : t.achievedBclk = s.achievedBclk
  clkWarn : t.clkWarn = s.clkWarn
  cb : t.cb = s.cb
  pending : t.pending = s.pending
  dmaAnswers : t.dmaAnswers = s.dmaAnswers
  running : ∀ d, (t.ch.get d).running = (s.ch.get d).running
  blockBytes : ∀ d, (t.ch.get d).blockBytes = (s.ch.get d).blockBytes
  chanEn : ∀ d, (t.ctl.get d).chanEn = (s.ctl.get d).chanEn
  blkEn : ∀ d, (t.ctl.get d).blkEn = (s.ctl.get d).blkEn
  wlen : ∀ d, (t.ctl.get d).wlen = (s.ctl.get d).wlen
  trace : s.trace <+: t.trace

theorem EventFrame.refl (s : State) : EventFrame s s := by
  constructor <;> first | exact List.prefix_rfl | simp

theorem EventFrame.trans {s t u : State} (h : EventFrame s t) (k : EventFrame t u) : EventFrame s u := by
  cases h; cases k
  constructor <;> first | exact List.IsPrefix.trans ‹_› ‹_› | simp_all

/-- What an operation on the opposite direction leaves of direction `e`. -/
structure DirFrame (e : Dir) (s t : State) : Prop where
  ch : t.ch.get e = s.ch.get e
  ctl : t.ctl.get e = s.ctl.get e
  raw : t.raw.get e = s.raw.get e

theorem DirFrame.refl (e : Dir) (s : State) : DirFrame e s s := ⟨rfl, rfl, rfl⟩

theorem DirFrame.trans {e : Dir} {s t u : State} (h : DirFrame e s t) (k : DirFrame e t u) : DirFrame e s u :=
  ⟨k.ch.trans h.ch, k.ctl.trans h.ctl, k.raw.trans h.raw⟩

/-! ### The pump's pieces -/

theorem overrunLatch_frame (s : State) (d : Dir) : EventFrame s (s.overrunLatch d) := by
  constructor <;> first
    | (intro e; cases d <;> cases e <;> simp [State.overrunLatch])
    | simp [State.overrunLatch]

theorem overrunLatch_dirFrame (s : State) {d e : Dir} (h : e ≠ d) : DirFrame e s (s.overrunLatch d) := by
  constructor <;> simp [State.overrunLatch, PerDir.get_set_other, h]

/-- What the overrun latch does to its own direction (44_pump.md R131). -/
theorem overrunLatch_spec (s : State) (d : Dir) :
    (s.overrunLatch d).ch.get d = { s.ch.get d with overrun := true } ∧
    (s.overrunLatch d).ctl.get d = { s.ctl.get d with ovrIe := false } ∧
    (s.overrunLatch d).raw.get d = { s.raw.get d with ovr := false } ∧
    (s.overrunLatch d).mem = s.mem ∧ (s.overrunLatch d).trace = s.trace ++ [.ovrClr d] := by
  simp [State.overrunLatch]

theorem latchIf_frame (s : State) (d : Dir) (ovr : Bool) : EventFrame s (s.latchIf d ovr) := by
  unfold State.latchIf
  split
  · exact overrunLatch_frame s d
  · exact EventFrame.refl s

theorem latchIf_dirFrame (s : State) {d e : Dir} (ovr : Bool) (h : e ≠ d) : DirFrame e s (s.latchIf d ovr) := by
  unfold State.latchIf
  split
  · exact overrunLatch_dirFrame s h
  · exact DirFrame.refl e s

@[simp] theorem State.latchIf_mem (s : State) (d : Dir) (ovr : Bool) : (s.latchIf d ovr).mem = s.mem := by
  unfold State.latchIf
  split <;> simp [State.overrunLatch]

theorem State.latchIf_ch (s : State) (d : Dir) (ovr : Bool) :
    (s.latchIf d ovr).ch.get d = { s.ch.get d with overrun := (s.ch.get d).overrun || ovr } := by
  unfold State.latchIf
  cases ovr <;> simp [State.overrunLatch]

theorem State.latchIf_ctl (s : State) (d : Dir) (ovr : Bool) :
    (s.latchIf d ovr).ctl.get d = { s.ctl.get d with ovrIe := (s.ctl.get d).ovrIe && !ovr } := by
  unfold State.latchIf
  cases ovr <;> simp [State.overrunLatch]

/-- A frame moves the cursors of its direction by the layout's steps and writes no other field of a Channel record. -/
theorem frame_ch (s : State) (d : Dir) :
    (s.frame d).ch = s.ch.set d { s.ch.get d with
      index := (s.ch.get d).index + indexStep s.frameLayout
      count := (s.ch.get d).count + countStep s.frameLayout } := by
  cases d <;> simp only [State.frame, State.frameTx, State.frameRx] <;> split <;>
    simp_all [State.frameTxMono, State.frameTxInterleaved, State.frameTxSplit, State.frameRxMono,
      State.frameRxInterleaved, State.frameRxSplit]

@[simp] theorem State.frame_ctl (s : State) (d : Dir) : (s.frame d).ctl = s.ctl := by
  cases d <;> simp only [State.frame, State.frameTx, State.frameRx] <;> split <;>
    simp [State.frameTxMono, State.frameTxInterleaved, State.frameTxSplit, State.frameRxMono,
      State.frameRxInterleaved, State.frameRxSplit]

@[simp] theorem State.frame_raw (s : State) (d : Dir) : (s.frame d).raw = s.raw := by
  cases d <;> simp only [State.frame, State.frameTx, State.frameRx] <;> split <;>
    simp [State.frameTxMono, State.frameTxInterleaved, State.frameTxSplit, State.frameRxMono,
      State.frameRxInterleaved, State.frameRxSplit]

/-- A transmit frame writes no memory. -/
@[simp] theorem State.frame_tx_mem (s : State) : (s.frame .tx).mem = s.mem := by
  simp only [State.frame, State.frameTx]
  split <;> simp [State.frameTxMono, State.frameTxInterleaved, State.frameTxSplit]

theorem frame_frame (s : State) (d : Dir) : EventFrame s (s.frame d) := by
  have hch := frame_ch s d
  constructor
  case running => intro e; rw [hch, PerDir.get_set]; split <;> simp_all
  case blockBytes => intro e; rw [hch, PerDir.get_set]; split <;> simp_all
  case trace =>
    cases d <;> simp only [State.frame, State.frameTx, State.frameRx] <;> split <;>
      simp [State.frameTxMono, State.frameTxInterleaved, State.frameTxSplit, State.frameRxMono,
        State.frameRxInterleaved, State.frameRxSplit]
  all_goals first
    | (intro e; simp)
    | (cases d <;> simp only [State.frame, State.frameTx, State.frameRx] <;> split <;>
        simp [State.frameTxMono, State.frameTxInterleaved, State.frameTxSplit, State.frameRxMono,
          State.frameRxInterleaved, State.frameRxSplit])

theorem frame_dirFrame (s : State) {d e : Dir} (h : e ≠ d) : DirFrame e s (s.frame d) := by
  constructor
  · rw [frame_ch, PerDir.get_set_other _ _ _ _ h]
  · simp
  · simp

theorem frame_wf {s : State} (d : Dir) (h : s.mem.wf = true) : (s.frame d).mem.wf = true := by
  cases d
  · simpa using h
  · have hr : s.rxr.mem.wf = true := by simpa using h
    simp only [State.frame, State.frameRx]
    split
    · simpa [State.frameRxMono] using State.wr_wf hr .rx _ _
    · simpa [State.frameRxInterleaved] using State.wr_wf (State.wr_wf hr .rx _ _) .rx _ _
    · simpa [State.frameRxSplit] using State.wr_wf (State.wr_wf hr .rx _ _) .rx _ _

/-! ### Runs of frames -/

/-- What every frame keeps, any number of frames keep. -/
theorem pumpFrames_induction {P : State → Prop} (d : Dir) (step : ∀ s, P s → s.drained d = false → P (s.frame d)) :
    ∀ (k : Nat) (s : State), P s → P (s.pumpFrames d k)
  | 0, _, h => h
  | k + 1, s, h => by
    unfold State.pumpFrames
    cases hd : s.drained d
    · simpa using pumpFrames_induction d step k _ (step s h hd)
    · simpa using h

theorem pumpFrames_frame (s : State) (d : Dir) (k : Nat) : EventFrame s (s.pumpFrames d k) :=
  pumpFrames_induction (P := EventFrame s) d (fun t h _ => h.trans (frame_frame t d)) k s (EventFrame.refl s)

theorem pumpFrames_dirFrame (s : State) {d e : Dir} (h : e ≠ d) (k : Nat) : DirFrame e s (s.pumpFrames d k) :=
  pumpFrames_induction (P := DirFrame e s) d (fun t ht _ => ht.trans (frame_dirFrame t h)) k s (DirFrame.refl e s)

theorem pumpFrames_wf {s : State} (d : Dir) (k : Nat) (h : s.mem.wf = true) : (s.pumpFrames d k).mem.wf = true :=
  pumpFrames_induction (P := fun t => t.mem.wf = true) d (fun _ ht _ => frame_wf d ht) k s h

@[simp] theorem State.pumpFrames_tx_mem (s : State) (k : Nat) : (s.pumpFrames .tx k).mem = s.mem :=
  pumpFrames_induction (P := fun t => t.mem = s.mem) .tx (fun t h _ => by simp [h]) k s rfl

@[simp] theorem State.pumpFrames_ctl (s : State) (d : Dir) (k : Nat) : (s.pumpFrames d k).ctl = s.ctl :=
  pumpFrames_induction (P := fun t => t.ctl = s.ctl) d (fun t h _ => by simp [h]) k s rfl

@[simp] theorem State.pumpFrames_raw (s : State) (d : Dir) (k : Nat) : (s.pumpFrames d k).raw = s.raw :=
  pumpFrames_induction (P := fun t => t.raw = s.raw) d (fun t h _ => by simp [h]) k s rfl

/-- Frames move the two cursors of their direction and no other field of its record. -/
theorem pumpFrames_ch (s : State) (d : Dir) (k : Nat) :
    ∃ c i, (s.pumpFrames d k).ch.get d = { s.ch.get d with count := c, index := i } :=
  pumpFrames_induction (P := fun t => ∃ c i, t.ch.get d = { s.ch.get d with count := c, index := i }) d
    (fun t ht _ => by
      obtain ⟨c, i, h⟩ := ht
      rw [frame_ch, PerDir.get_set_same, h]
      exact ⟨_, _, rfl⟩) k s ⟨(s.ch.get d).count, (s.ch.get d).index, rfl⟩

/-! ### Completion -/

/-- Everything `COMPLETE(d)` does to its own direction (44_pump.md R137). -/
theorem complete_spec (s : State) (d : Dir) :
    (s.complete d).ch.get d =
      { s.ch.get d with buffer := null, samples := 0#32, index := 0#32, overrun := false } ∧
    (s.complete d).ctl.get d = { s.ctl.get d with fifoIe := false } ∧
    (s.complete d).raw = s.raw ∧ (s.complete d).mem = s.mem ∧
    (s.complete d).trace =
      s.trace ++ [.cb d (completionStatus (s.ch.get d).overrun) (s.ch.get d).buffer (s.cb.get d)] := by
  simp [State.complete]

theorem complete_frame (s : State) (d : Dir) : EventFrame s (s.complete d) := by
  constructor <;> first
    | (intro e; cases d <;> cases e <;> simp [State.complete])
    | simp [State.complete]

theorem complete_dirFrame (s : State) {d e : Dir} (h : e ≠ d) : DirFrame e s (s.complete d) := by
  constructor <;> simp [State.complete, PerDir.get_set_other, h]

/-! ### One pump invocation -/

/-- Everything one pump invocation can do (44_pump.md R130, R132): latch only, move frames, or move the last frames and complete. -/
theorem pump_cases (s : State) (d : Dir) (ovr : Bool) :
    ((s.ch.get d).buffer = null ∧ s.pump d ovr = s.latchIf d ovr) ∨
    ((s.ch.get d).buffer ≠ null ∧
      ((((s.latchIf d ovr).pumpFrames d (s.params.trig d)).drained d = false ∧
          s.pump d ovr = (s.latchIf d ovr).pumpFrames d (s.params.trig d)) ∨
        (((s.latchIf d ovr).pumpFrames d (s.params.trig d)).drained d = true ∧
          s.pump d ovr = ((s.latchIf d ovr).pumpFrames d (s.params.trig d)).complete d))) := by
  have hb : ((s.latchIf d ovr).ch.get d).buffer = (s.ch.get d).buffer := by rw [State.latchIf_ch]
  have hp : (s.latchIf d ovr).params = s.params := (latchIf_frame s d ovr).params
  unfold State.pump State.pumpTransfer
  rw [hb, hp]
  by_cases h : (s.ch.get d).buffer = null
  · exact .inl ⟨h, by simp [h]⟩
  · refine .inr ⟨h, ?_⟩
    cases hd : ((s.latchIf d ovr).pumpFrames d (s.params.trig d)).drained d
    · exact .inl ⟨rfl, by simp [h, hd]⟩
    · exact .inr ⟨rfl, by simp [h, hd]⟩

theorem pump_frame (s : State) (d : Dir) (ovr : Bool) : EventFrame s (s.pump d ovr) := by
  have hl := latchIf_frame s d ovr
  have hf := hl.trans (pumpFrames_frame (s.latchIf d ovr) d (s.params.trig d))
  rcases pump_cases s d ovr with ⟨_, h⟩ | ⟨_, ⟨_, h⟩ | ⟨_, h⟩⟩ <;> rw [h]
  · exact hl
  · exact hf
  · exact hf.trans (complete_frame _ d)

theorem pump_dirFrame (s : State) {d e : Dir} (he : e ≠ d) (ovr : Bool) : DirFrame e s (s.pump d ovr) := by
  have hl := latchIf_dirFrame s ovr he
  have hf := hl.trans (pumpFrames_dirFrame (s.latchIf d ovr) he (s.params.trig d))
  rcases pump_cases s d ovr with ⟨_, h⟩ | ⟨_, ⟨_, h⟩ | ⟨_, h⟩⟩ <;> rw [h]
  · exact hl
  · exact hf
  · exact hf.trans (complete_dirFrame _ he)

theorem pump_wf {s : State} (d : Dir) (ovr : Bool) (hw : s.mem.wf = true) : (s.pump d ovr).mem.wf = true := by
  have hl : (s.latchIf d ovr).mem.wf = true := by simpa using hw
  rcases pump_cases s d ovr with ⟨_, h⟩ | ⟨_, ⟨_, h⟩ | ⟨_, h⟩⟩ <;> rw [h]
  · exact hl
  · exact pumpFrames_wf d _ hl
  · rw [(complete_spec _ d).2.2.2.1]; exact pumpFrames_wf d _ hl

/-- The transmit pump writes no memory (20_memory.md R56). -/
theorem pump_tx_mem (s : State) (ovr : Bool) : (s.pump .tx ovr).mem = s.mem := by
  rcases pump_cases s .tx ovr with ⟨_, h⟩ | ⟨_, ⟨_, h⟩ | ⟨_, h⟩⟩ <;> rw [h]
  · simp
  · simp
  · rw [(complete_spec _ _).2.2.2.1]; simp

/-! ### The dispatcher -/

theorem dmaOverrun_frame (s : State) (d : Dir) : EventFrame s (s.dmaOverrun d) := by
  constructor <;> first
    | (intro e; cases d <;> cases e <;> simp [State.dmaOverrun])
    | simp [State.dmaOverrun]

theorem dmaOverrun_dirFrame (s : State) {d e : Dir} (h : e ≠ d) : DirFrame e s (s.dmaOverrun d) := by
  constructor <;> simp [State.dmaOverrun, PerDir.get_set_other, h]

/-- Everything the dispatcher can do for one direction (45_dispatch.md R152). -/
theorem route_cases (s : State) (d : Dir) (b : StatusBits) :
    (((b.rdy || b.ovr) = false ∨ (s.ch.get d).running = false) ∧ s.route d b = s) ∨
    ((b.rdy || b.ovr) = true ∧ (s.ch.get d).running = true ∧
      ((s.params.dma d = true ∧ s.route d b = s.dmaOverrun d) ∨
        (s.params.dma d = false ∧ s.route d b = s.pump d b.ovr))) := by
  unfold State.route
  cases (b.rdy || b.ovr) <;> cases (s.ch.get d).running <;> cases s.params.dma d <;> simp

theorem route_frame (s : State) (d : Dir) (b : StatusBits) : EventFrame s (s.route d b) := by
  rcases route_cases s d b with ⟨_, h⟩ | ⟨_, _, ⟨_, h⟩ | ⟨_, h⟩⟩ <;> rw [h]
  · exact EventFrame.refl s
  · exact dmaOverrun_frame s d
  · exact pump_frame s d _

theorem route_dirFrame (s : State) {d e : Dir} (he : e ≠ d) (b : StatusBits) : DirFrame e s (s.route d b) := by
  rcases route_cases s d b with ⟨_, h⟩ | ⟨_, _, ⟨_, h⟩ | ⟨_, h⟩⟩ <;> rw [h]
  · exact DirFrame.refl e s
  · exact dmaOverrun_dirFrame s he
  · exact pump_dirFrame s he _

theorem route_wf {s : State} (d : Dir) (b : StatusBits) (hw : s.mem.wf = true) : (s.route d b).mem.wf = true := by
  rcases route_cases s d b with ⟨_, h⟩ | ⟨_, _, ⟨_, h⟩ | ⟨_, h⟩⟩ <;> rw [h]
  · exact hw
  · simpa [State.dmaOverrun] using hw
  · exact pump_wf d _ hw

theorem route_tx_mem (s : State) (b : StatusBits) : (s.route .tx b).mem = s.mem := by
  rcases route_cases s .tx b with ⟨_, h⟩ | ⟨_, _, ⟨_, h⟩ | ⟨_, h⟩⟩ <;> rw [h]
  · simp [State.dmaOverrun]
  · exact pump_tx_mem s _

theorem enterIrq_frame (s : State) (r : BitVec 4) : EventFrame s (s.enterIrq r) := by
  constructor <;> simp

theorem dispatch_frame (s : State) (st : PerDir StatusBits) : EventFrame s (s.dispatch st) :=
  (route_frame s .tx st.tx).trans (route_frame _ .rx st.rx)

theorem dispatch_wf {s : State} (st : PerDir StatusBits) (hw : s.mem.wf = true) : (s.dispatch st).mem.wf = true :=
  route_wf .rx _ (route_wf .tx _ hw)

/-- After an activation the transmit direction is as its own part of the dispatcher left it. -/
theorem dispatch_tx (s : State) (st : PerDir StatusBits) : DirFrame .tx (s.route .tx st.tx) (s.dispatch st) :=
  route_dirFrame _ (by decide) _

/-! ### The DMA completion -/

theorem dmaComplete_frame (s : State) (d : Dir) (st : Word) : EventFrame s (s.dmaComplete d st) := by
  constructor <;> first
    | (intro e; cases d <;> cases e <;>
        simp [State.dmaComplete, State.invalidateRx, State.logDmaStatus] <;> split <;> simp)
    | (cases d <;> simp [State.dmaComplete, State.invalidateRx, State.logDmaStatus] <;> split <;> simp)

/-- Everything `DMA_DONE` can do (43_dma.md R123, R124). -/
theorem dmaDone_cases (s : State) (d : Dir) (st : Word) :
    ((s.params.dma d = false ∨ (s.ch.get d).buffer = null) ∧ s.dmaDone d st = s) ∨
    (s.params.dma d = true ∧ (s.ch.get d).buffer ≠ null ∧ s.dmaDone d st = s.dmaComplete d st) := by
  unfold State.dmaDone
  by_cases h : s.params.dma d = false ∨ (s.ch.get d).buffer = null
  · exact .inl ⟨h, by simp [h]⟩
  · refine .inr ⟨?_, ?_, by simp [h]⟩
    · cases hd : s.params.dma d <;> simp_all
    · intro hb; exact h (.inr hb)

/-- What a DMA completion leaves of the Channel records, the controls and the memory. -/
theorem dmaComplete_spec (s : State) (d : Dir) (st : Word) :
    (s.dmaComplete d st).ch = s.ch.set d { s.ch.get d with buffer := null } ∧
    (s.dmaComplete d st).ctl = s.ctl ∧ (s.dmaComplete d st).raw = s.raw ∧
    (s.dmaComplete d st).mem = s.mem ∧ (s.dmaComplete d st).rxEntries = s.rxEntries ∧
    (s.dmaComplete d st).draws = s.draws := by
  cases d <;> simp [State.dmaComplete, State.invalidateRx, State.logDmaStatus] <;> split <;> simp

theorem dmaDone_frame (s : State) (d : Dir) (st : Word) : EventFrame s (s.dmaDone d st) := by
  rcases dmaDone_cases s d st with ⟨_, h⟩ | ⟨_, _, h⟩ <;> rw [h]
  · exact EventFrame.refl s
  · exact dmaComplete_frame s d st

end Sys2Proof.Machine
end

