-- ==== Sys2Proof/Laws/Pump.lean ====
section
/-! SUPPORT. How far a run of frames gets: the cursors, the frames left, and the transmit events, for a transfer armed under the configuration still stored. -/

namespace Sys2Proof.Machine

/-- A legal stored configuration, the part of `ConfigCoherent` the pump reads. -/
structure LegalFormat (s : State) : Prop where
  depth : s.cfg.bitDepth = 16#32 ∨ s.cfg.bitDepth = 24#32 ∨ s.cfg.bitDepth = 32#32
  channels : s.cfg.channelCount = 1#32 ∨ s.cfg.channelCount = 2#32

theorem ConfigCoherent.format {s : State} (h : ConfigCoherent s) : LegalFormat s := ⟨h.depthLegal, h.channelsLegal⟩

theorem LegalFormat.bps {s : State} (h : LegalFormat s) : 2 ≤ s.bps ∧ s.bps ≤ 4 := by
  unfold State.bps
  rcases h.depth with h | h | h <;> rw [h] <;> decide

theorem LegalFormat.port {s : State} (h : LegalFormat s) : 2 ^ s.cfg.bitDepth.toNat = 256 ^ s.bps := by
  unfold State.bps
  rcases h.depth with h | h | h <;> rw [h] <;> decide

/-- The three layouts with their channel count and steps (44_pump.md R140). -/
theorem LegalFormat.layout {s : State} (h : LegalFormat s) :
    (s.frameLayout = .mono ∧ s.nch = 1) ∨ (s.frameLayout = .interleaved ∧ s.nch = 2) ∨
      (s.frameLayout = .split ∧ s.nch = 2) := by
  unfold State.frameLayout State.nch
  rcases h.channels with h | h <;> rw [h]
  · exact .inl ⟨rfl, rfl⟩
  · cases s.params.spec.layout
    · exact .inr (.inl ⟨rfl, rfl⟩)
    · exact .inr (.inr ⟨rfl, rfl⟩)

theorem LegalFormat.countStep {s : State} (h : LegalFormat s) : (countStep s.frameLayout).toNat = s.nch := by
  rcases h.layout with ⟨h, k⟩ | ⟨h, k⟩ | ⟨h, k⟩ <;> rw [h, k] <;> rfl

theorem LegalFormat.nch {s : State} (h : LegalFormat s) : s.nch = 1 ∨ s.nch = 2 := by
  rcases h.layout with ⟨_, k⟩ | ⟨_, k⟩ | ⟨_, k⟩ <;> simp [k]

/-- The fields a format depends on. -/
theorem LegalFormat.of_eq {s t : State} (h : LegalFormat s) (hc : t.cfg = s.cfg) : LegalFormat t :=
  ⟨by rw [hc]; exact h.depth, by rw [hc]; exact h.channels⟩

theorem frameLayout_congr {s t : State} (hp : t.params = s.params) (hc : t.cfg = s.cfg) :
    t.frameLayout = s.frameLayout := by
  unfold State.frameLayout; rw [hp, hc]

theorem nch_congr {s t : State} (hc : t.cfg = s.cfg) : t.nch = s.nch := by unfold State.nch; rw [hc]

theorem bps_congr {s t : State} (hc : t.cfg = s.cfg) : t.bps = s.bps := by unfold State.bps; rw [hc]

/-- `TransferCoherent` speaks of the configuration and the record of its direction only. -/
theorem TransferCoherent.of_eq {s t : State} {d : Dir} (h : TransferCoherent s d) (hp : t.params = s.params)
    (hc : t.cfg = s.cfg) (hs : (t.ch.get d).samples = (s.ch.get d).samples)
    (hb : (t.ch.get d).blockBytes = (s.ch.get d).blockBytes) (hn : (t.ch.get d).count = (s.ch.get d).count)
    (hi : (t.ch.get d).index = (s.ch.get d).index) : TransferCoherent t d := by
  constructor
  · rw [hs, hb, bps_congr hc]; exact h.lengthIs
  · rw [hs, hn]; exact h.progressBounded
  · rw [hs, nch_congr hc]; exact h.samplesWhole
  · rw [hn, nch_congr hc]; exact h.progressWhole
  · rw [hn, hi, frameLayout_congr hp hc]; exact h.cursorIs

/-- The cursors as numbers stay far below `2 ^ 32`: a sample has at least two bytes. -/
theorem TransferCoherent.samples_lt {s : State} {d : Dir} (h : TransferCoherent s d) (hf : LegalFormat s) :
    (s.ch.get d).samples.toNat < 2 ^ 31 := by
  have h1 := h.lengthIs
  have h2 := (s.ch.get d).blockBytes.isLt
  have h3 : (s.ch.get d).samples.toNat * 2 ≤ (s.ch.get d).samples.toNat * s.bps :=
    Nat.mul_le_mul_left _ hf.bps.1
  omega

theorem drained_iff (s : State) (d : Dir) :
    s.drained d = true ↔ (s.ch.get d).count.toNat = (s.ch.get d).samples.toNat := by
  simp [State.drained, BitVec.toNat_inj]

theorem drained_eq_false_iff (s : State) (d : Dir) :
    s.drained d = false ↔ (s.ch.get d).count.toNat ≠ (s.ch.get d).samples.toNat := by
  rw [← Bool.not_eq_true, drained_iff]

/-- An unfinished transfer has at least a whole frame left. -/
theorem TransferCoherent.room {s : State} {d : Dir} (h : TransferCoherent s d) (hf : LegalFormat s)
    (hd : s.drained d = false) : (s.ch.get d).count.toNat + s.nch ≤ (s.ch.get d).samples.toNat := by
  rw [drained_eq_false_iff] at hd
  have h1 := h.progressBounded
  have h2 := h.samplesWhole
  have h3 := h.progressWhole
  rcases hf.nch with hn | hn <;> rw [hn] at h2 h3 ⊢ <;> omega

/-- The two cursors after a frame, as numbers. -/
theorem frame_cursors {s : State} {d : Dir} (h : TransferCoherent s d) (hf : LegalFormat s)
    (hd : s.drained d = false) :
    ((s.frame d).ch.get d).count.toNat = (s.ch.get d).count.toNat + s.nch ∧
    ((s.frame d).ch.get d).index.toNat = (s.ch.get d).index.toNat + (indexStep s.frameLayout).toNat := by
  have hr := h.room hf hd
  have hlt := h.samples_lt hf
  have hc := h.cursorIs
  have hb := h.progressBounded
  rw [frame_ch, PerDir.get_set_same]
  simp only [BitVec.toNat_add, hf.countStep]
  constructor
  · rw [Nat.mod_eq_of_lt (by omega)]
  · rcases hf.layout with ⟨hl, hn⟩ | ⟨hl, hn⟩ | ⟨hl, hn⟩ <;>
      simp only [hl, cursorFollows, indexStep, BitVec.toNat_ofNat] at hc ⊢ <;>
      rw [Nat.mod_eq_of_lt] <;> omega

/-- A frame keeps the transfer coherent. -/
theorem frame_coherent {s : State} {d : Dir} (h : TransferCoherent s d) (hf : LegalFormat s)
    (hd : s.drained d = false) : TransferCoherent (s.frame d) d := by
  obtain ⟨h1, h2⟩ := frame_cursors h hf hd
  have hr := h.room hf hd
  have fr := frame_frame s d
  have hs : ((s.frame d).ch.get d).samples = (s.ch.get d).samples := by rw [frame_ch, PerDir.get_set_same]
  have hc := h.cursorIs
  constructor
  · rw [hs, fr.blockBytes, bps_congr fr.cfg]; exact h.lengthIs
  · rw [hs, h1]; exact hr
  · rw [hs, nch_congr fr.cfg]; exact h.samplesWhole
  · have := h.progressWhole
    rw [h1, nch_congr fr.cfg]
    rcases hf.nch with hn | hn <;> rw [hn] at this ⊢ <;> omega
  · rw [h1, h2, frameLayout_congr fr.params fr.cfg]
    rcases hf.layout with ⟨hl, hn⟩ | ⟨hl, hn⟩ | ⟨hl, hn⟩ <;>
      simp only [hl, hn, cursorFollows, indexStep, BitVec.toNat_ofNat] at hc ⊢ <;> omega

theorem frame_format {s : State} (d : Dir) (hf : LegalFormat s) : LegalFormat (s.frame d) :=
  hf.of_eq (frame_frame s d).cfg

/-- Nothing is left exactly when the transfer is drained. -/
theorem framesLeft_eq_zero {s : State} {d : Dir} (h : TransferCoherent s d) (hf : LegalFormat s) :
    s.framesLeft d = 0 ↔ s.drained d = true := by
  rw [drained_iff]
  unfold State.framesLeft
  have h1 := h.progressBounded
  have h2 := h.samplesWhole
  have h3 := h.progressWhole
  rcases hf.nch with hn | hn <;> rw [hn] at h2 h3 ⊢ <;> omega

/-- Each frame leaves one frame less. -/
theorem framesLeft_frame {s : State} {d : Dir} (h : TransferCoherent s d) (hf : LegalFormat s)
    (hd : s.drained d = false) : s.framesLeft d = (s.frame d).framesLeft d + 1 := by
  have hr := h.room hf hd
  have h2 := h.samplesWhole
  have h3 := h.progressWhole
  unfold State.framesLeft
  rw [(frame_cursors h hf hd).1, nch_congr (frame_frame s d).cfg, frame_ch, PerDir.get_set_same]
  rcases hf.nch with hn | hn <;> simp only [hn] at h2 h3 hr ⊢ <;> omega

/-- Where a run of frames ends: the cursors, and whether the transfer is drained. -/
theorem pumpFrames_progress {d : Dir} : ∀ (k : Nat) {s : State}, TransferCoherent s d → LegalFormat s →
    TransferCoherent (s.pumpFrames d k) d ∧
    ((s.pumpFrames d k).ch.get d).count.toNat = (s.ch.get d).count.toNat + min k (s.framesLeft d) * s.nch ∧
    ((s.pumpFrames d k).ch.get d).index.toNat =
      (s.ch.get d).index.toNat + min k (s.framesLeft d) * (indexStep s.frameLayout).toNat ∧
    ((s.pumpFrames d k).drained d = true ↔ s.framesLeft d ≤ k) ∧
    (s.pumpFrames d k).framesLeft d = s.framesLeft d - k
  | 0, s, h, hf => by
    unfold State.pumpFrames
    exact ⟨h, by simp, by simp, by rw [← framesLeft_eq_zero h hf]; omega, by simp⟩
  | k + 1, s, h, hf => by
    unfold State.pumpFrames
    cases hd : s.drained d
    · have fr := frame_frame s d
      obtain ⟨i1, i2, i3, i4, i5⟩ := pumpFrames_progress k (frame_coherent h hf hd) (frame_format d hf)
      obtain ⟨c1, c2⟩ := frame_cursors h hf hd
      have hl := framesLeft_frame h hf hd
      rw [c1, nch_congr fr.cfg] at i2
      rw [c2, frameLayout_congr fr.params fr.cfg] at i3
      rw [hl]
      simp only [Bool.false_eq_true, if_false]
      refine ⟨i1, ?_, ?_, ?_, ?_⟩
      · rw [i2, Nat.add_min_add_right, Nat.add_mul]; omega
      · rw [i3, Nat.add_min_add_right, Nat.add_mul]; omega
      · rw [i4]; omega
      · rw [i5]; omega
    · have h0 := (framesLeft_eq_zero h hf).mpr hd
      simp [h, h0, hd]

/-- The record a run of frames leaves. -/
theorem pumpFrames_ch_eq {d : Dir} (k : Nat) {s : State} (h : TransferCoherent s d) (hf : LegalFormat s) :
    (s.pumpFrames d k).ch.get d = { s.ch.get d with
      count := (s.ch.get d).count + BitVec.ofNat 32 (min k (s.framesLeft d) * s.nch)
      index := (s.ch.get d).index + BitVec.ofNat 32 (min k (s.framesLeft d) * (indexStep s.frameLayout).toNat) } := by
  obtain ⟨c, i, he⟩ := pumpFrames_ch s d k
  obtain ⟨_, h1, h2, _, _⟩ := pumpFrames_progress k h hf
  rw [he] at h1 h2 ⊢
  simp only at h1 h2
  have hc := c.isLt
  have hi := i.isLt
  have ec : c = (s.ch.get d).count + BitVec.ofNat 32 (min k (s.framesLeft d) * s.nch) := by
    apply BitVec.eq_of_toNat_eq
    rw [BitVec.toNat_add, BitVec.toNat_ofNat, Nat.add_mod_mod, ← h1, Nat.mod_eq_of_lt hc]
  have ei : i = (s.ch.get d).index +
      BitVec.ofNat 32 (min k (s.framesLeft d) * (indexStep s.frameLayout).toNat) := by
    apply BitVec.eq_of_toNat_eq
    rw [BitVec.toNat_add, BitVec.toNat_ofNat, Nat.add_mod_mod, ← h2, Nat.mod_eq_of_lt hi]
  rw [← ec, ← ei]

/-! ### Transmit events -/

theorem rd_congr {s t : State} (hp : t.params = s.params) (hc : t.cfg = s.cfg) (hm : t.mem = s.mem) (d : Dir)
    (hb : (t.ch.get d).buffer = (s.ch.get d).buffer) (i : Nat) : t.rd d i = s.rd d i := by
  unfold State.rd State.sampleAddr State.memRead
  rw [hp, hm, hb, bps_congr hc]

/-- The event of one transmit frame is the one predicted from its cursor. -/
theorem frame_tx_trace {s : State} (hf : LegalFormat s) : (s.frame .tx).trace = s.trace ++ [s.txFrameEvent 0] := by
  simp only [State.frame, State.frameTx, State.txFrameEvent, State.frameIndexes]
  rcases hf.layout with ⟨hl, _⟩ | ⟨hl, _⟩ | ⟨hl, _⟩ <;>
    simp [hl, State.frameTxMono, State.frameTxInterleaved, State.frameTxSplit, State.leftIndex]

theorem frameIndexes_frame {s : State} {d : Dir} (h : TransferCoherent s d) (hf : LegalFormat s)
    (hd : s.drained d = false) (k : Nat) : (s.frame d).frameIndexes d k = s.frameIndexes d (k + 1) := by
  have hi := (frame_cursors h hf hd).2
  have hs : ((s.frame d).ch.get d).samples = (s.ch.get d).samples := by rw [frame_ch, PerDir.get_set_same]
  unfold State.frameIndexes
  rw [frameLayout_congr (frame_frame s d).params (frame_frame s d).cfg, hi, hs]
  rcases hf.layout with ⟨hl, _⟩ | ⟨hl, _⟩ | ⟨hl, _⟩ <;> simp [hl, indexStep] <;> omega

theorem txFrameEvent_frame {s : State} (h : TransferCoherent s .tx) (hf : LegalFormat s)
    (hd : s.drained .tx = false) (k : Nat) : (s.frame .tx).txFrameEvent k = s.txFrameEvent (k + 1) := by
  have fr := frame_frame s .tx
  have hb : ((s.frame .tx).ch.get .tx).buffer = (s.ch.get .tx).buffer := by rw [frame_ch, PerDir.get_set_same]
  have hr : ∀ i, (s.frame .tx).rd .tx i = s.rd .tx i := rd_congr fr.params fr.cfg (by simp) .tx hb
  unfold State.txFrameEvent
  rw [frameIndexes_frame h hf hd]
  split <;> simp [hr]

/-- The events a run of transmit frames emits, in their order (44_pump.md R133 to R135, R141). -/
theorem pumpFrames_tx_trace : ∀ (k : Nat) {s : State}, TransferCoherent s .tx → LegalFormat s →
    (s.pumpFrames .tx k).trace = s.trace ++ (List.range (min k (s.framesLeft .tx))).map s.txFrameEvent
  | 0, s, _, _ => by simp [State.pumpFrames]
  | k + 1, s, h, hf => by
    unfold State.pumpFrames
    cases hd : s.drained .tx
    · rw [if_neg (by simp), pumpFrames_tx_trace k (frame_coherent h hf hd) (frame_format .tx hf),
        frame_tx_trace hf, framesLeft_frame h hf hd, Nat.add_min_add_right, List.range_succ_eq_map]
      have : (s.frame .tx).txFrameEvent = s.txFrameEvent ∘ Nat.succ := by
        funext j
        exact txFrameEvent_frame h hf hd j
      simp [this]
    · have h0 := (framesLeft_eq_zero h hf).mpr hd
      simp [h0]

end Sys2Proof.Machine
end

