-- ==== Sys2Proof/Laws/Receive.lean ====
section
/-! SUPPORT. What a run of receive frames leaves in memory: each sample of the moved frames holds the value its entry delivered, every other byte is as before, and every byte stored lies in the borrowed buffer (20_memory.md R58). -/

namespace Sys2Proof.Machine

/-- A byte address of sample `i`. -/
theorem sampleByte (s : State) (d : Dir) (i b : Nat) :
    (s.sampleAddr d i + b) % addrSpace = ((s.ch.get d).buffer.toNat + i * s.bps + b) % addrSpace := by
  unfold State.sampleAddr
  rw [Nat.mod_add_mod]

/-- Every byte of a sample of the transfer lies in the borrowed buffer (20_memory.md R58). -/
theorem sampleByte_inBuffer {s : State} {d : Dir} (h : TransferCoherent s d) {i b : Nat}
    (hi : i < (s.ch.get d).samples.toNat) (hb : b < s.bps) :
    i * s.bps + b < (s.ch.get d).blockBytes.toNat := by
  rw [← h.lengthIs]
  calc i * s.bps + b < i * s.bps + s.bps := by omega
    _ = (i + 1) * s.bps := by ring
    _ ≤ _ := Nat.mul_le_mul_right _ hi

/-- Different samples of one transfer share no byte: the whole block is shorter than the address space. -/
theorem sampleByte_ne {s : State} {d : Dir} (h : TransferCoherent s d) (hf : LegalFormat s) {i j b c : Nat}
    (hi : i < (s.ch.get d).samples.toNat) (hj : j < (s.ch.get d).samples.toNat) (hij : i ≠ j)
    (hb : b < s.bps) (hc : c < s.bps) :
    (s.sampleAddr d i + b) % addrSpace ≠ (s.sampleAddr d j + c) % addrSpace := by
  rw [sampleByte, sampleByte]
  have far : ∀ B x y : Nat, x < addrSpace → y < addrSpace → x ≠ y → (B + x) % addrSpace ≠ (B + y) % addrSpace := by
    intro B x y hx hy hxy
    simp only [addrSpace] at *
    omega
  rw [Nat.add_assoc, Nat.add_assoc]
  have h1 := (s.ch.get d).blockBytes.isLt
  refine far _ _ _ (Nat.lt_trans (sampleByte_inBuffer h hi hb) h1) (Nat.lt_trans (sampleByte_inBuffer h hj hc) h1) ?_
  have hbps : s.bps = 2 ∨ s.bps = 3 ∨ s.bps = 4 := by have := hf.bps; omega
  rcases hbps with e | e | e <;> rw [e] at hb hc ⊢ <;> omega

/-- Every sample index of a frame still to move is below `samples`. -/
theorem frameIndexes_lt {s : State} {d : Dir} (h : TransferCoherent s d) (hf : LegalFormat s) {k i : Nat}
    (hk : k < s.framesLeft d) (hi : i ∈ s.frameIndexes d k) : i < (s.ch.get d).samples.toNat := by
  unfold State.framesLeft at hk
  unfold State.frameIndexes at hi
  have h1 := h.progressBounded
  have h2 := h.samplesWhole
  have h3 := h.progressWhole
  have h4 := h.cursorIs
  rcases hf.layout with ⟨hl, hn⟩ | ⟨hl, hn⟩ | ⟨hl, hn⟩ <;> rw [hl] at hi h4 <;> rw [hn] at hk h2 h3 <;>
    simp only [List.mem_cons, List.not_mem_nil, or_false, cursorFollows] at hi h4 <;> omega

/-- Different frames of one transfer have no sample in common. -/
theorem frameIndexes_disjoint {s : State} {d : Dir} (h : TransferCoherent s d) (hf : LegalFormat s) {j k i : Nat}
    (hj : j < s.framesLeft d) (hk : k < s.framesLeft d) (hjk : j ≠ k) (hi : i ∈ s.frameIndexes d j) :
    i ∉ s.frameIndexes d k := by
  unfold State.framesLeft at hj hk
  unfold State.frameIndexes at hi ⊢
  have h1 := h.progressBounded
  have h2 := h.samplesWhole
  have h3 := h.progressWhole
  have h4 := h.cursorIs
  rcases hf.layout with ⟨hl, hn⟩ | ⟨hl, hn⟩ | ⟨hl, hn⟩ <;> rw [hl] at hi h4 ⊢ <;> rw [hn] at hj hk h2 h3 <;>
    simp only [List.mem_cons, List.not_mem_nil, or_false, cursorFollows] at hi h4 ⊢ <;> omega

/-! ### Samples in memory -/

/-- `MemRead` depends on the bytes it reads only. -/
theorem memRead_congr {s t : State} (hp : t.params = s.params) {a n : Nat}
    (h : ∀ b, b < n → t.mem.read ((a + b) % addrSpace) = s.mem.read ((a + b) % addrSpace)) :
    t.memRead a n = s.memRead a n := by
  have : t.mem.loadBytes a n = s.mem.loadBytes a n := by
    apply List.ext_getElem (by simp)
    intro k h1 h2
    rw [Memory.getElem_loadBytes, Memory.getElem_loadBytes]
    exact h k (by simpa using h1)
  unfold State.memRead
  rw [hp, this]

/-- `MemRead` after `MemWrite` of the same bytes. -/
theorem memRead_memWrite {s : State} (hw : s.mem.wf = true) (a n v : Nat) (hn : n ≤ addrSpace) :
    (s.memWrite a n v).memRead a n = v % 256 ^ n := by
  unfold State.memRead
  rw [State.memWrite_params, State.memWrite_mem]
  have := Memory.loadBytes_storeBytes hw (inByteOrder s.params.spec.byteOrder (bytesOfValue n v)) a (by simpa using hn)
  simp only [length_inByteOrder, length_bytesOfValue] at this
  rw [this, inByteOrder_twice, valueOfBytes_bytesOfValue]

/-- Bytes outside a `MemWrite` read as before. -/
theorem read_memWrite_outside {s : State} (hw : s.mem.wf = true) (a n v c : Nat)
    (hc : ∀ b, b < n → c ≠ (a + b) % addrSpace) : (s.memWrite a n v).mem.read c = s.mem.read c := by
  rw [State.memWrite_mem]
  exact Memory.read_storeBytes_outside c _ a hw (by simpa using hc)

/-! ### Entries of the receive FIFO -/

theorem rxEntryAt_zero (s : State) : s.rxEntryAt 0 = s.rxEntry := by
  unfold State.rxEntryAt State.rxEntry
  cases s.rxEntries <;> simp

theorem rxEntryAt_of_popped {s t : State} (he : t.rxEntries = s.rxEntries.tail)
    (hd : t.draws = s.draws + (if s.rxEntries = [] then 1 else 0)) (k : Nat) :
    t.rxEntryAt k = s.rxEntryAt (k + 1) := by
  unfold State.rxEntryAt
  rw [he, hd]
  cases s.rxEntries with
  | nil => simp; congr 1; omega
  | cons e es => simp

theorem frame_rx_env (s : State) : (s.frame .rx).rxEntries = s.rxEntries.tail ∧
    (s.frame .rx).draws = s.draws + (if s.rxEntries = [] then 1 else 0) := by
  simp only [State.frame, State.frameRx]
  split <;> simp [State.frameRxMono, State.frameRxInterleaved, State.frameRxSplit]

theorem rxValuesAt_frame (s : State) (k : Nat) : (s.frame .rx).rxValuesAt k = s.rxValuesAt (k + 1) := by
  have fr := frame_frame s .rx
  unfold State.rxValuesAt State.portValue
  rw [rxEntryAt_of_popped (frame_rx_env s).1 (frame_rx_env s).2, fr.cfg]

theorem rxFrameEvent_frame (s : State) (k : Nat) : (s.frame .rx).rxFrameEvent k = s.rxFrameEvent (k + 1) := by
  have fr := frame_frame s .rx
  unfold State.rxFrameEvent State.portValue
  rw [rxEntryAt_of_popped (frame_rx_env s).1 (frame_rx_env s).2, fr.cfg]

theorem frame_rx_trace (s : State) : (s.frame .rx).trace = s.trace ++ [s.rxFrameEvent 0] := by
  simp only [State.frame, State.frameRx, State.rxFrameEvent, rxEntryAt_zero]
  split <;> simp [State.frameRxMono, State.frameRxInterleaved, State.frameRxSplit, State.rxLeft, State.rxRight]

/-- The events a run of receive frames emits. -/
theorem pumpFrames_rx_trace : ∀ (k : Nat) {s : State}, TransferCoherent s .rx → LegalFormat s →
    (s.pumpFrames .rx k).trace = s.trace ++ (List.range (min k (s.framesLeft .rx))).map s.rxFrameEvent
  | 0, s, _, _ => by simp [State.pumpFrames]
  | k + 1, s, h, hf => by
    unfold State.pumpFrames
    cases hd : s.drained .rx
    · rw [if_neg (by simp), pumpFrames_rx_trace k (frame_coherent h hf hd) (frame_format .rx hf),
        frame_rx_trace, framesLeft_frame h hf hd, Nat.add_min_add_right, List.range_succ_eq_map]
      have : (s.frame .rx).rxFrameEvent = s.rxFrameEvent ∘ Nat.succ := by
        funext j
        exact rxFrameEvent_frame s j
      simp [this]
    · have h0 := (framesLeft_eq_zero h hf).mpr hd
      simp [h0]

/-! ### One receive frame -/

/-- The memory one receive frame leaves, as one or two sample writes. -/
theorem frame_rx_mem (s : State) :
    (s.frame .rx).mem = match s.frameLayout with
      | .mono => (s.wr .rx (s.ch.get .rx).index.toNat (s.portValue s.rxEntry.1)).mem
      | .interleaved => ((s.wr .rx (s.ch.get .rx).index.toNat (s.portValue s.rxEntry.1)).wr .rx
          ((s.ch.get .rx).index.toNat + 1) (s.portValue s.rxEntry.2)).mem
      | .split => ((s.wr .rx (s.ch.get .rx).index.toNat (s.portValue s.rxEntry.1)).wr .rx
          ((s.ch.get .rx).index.toNat + (s.ch.get .rx).samples.toNat / 2) (s.portValue s.rxEntry.2)).mem := by
  simp only [State.frame, State.frameRx]
  have h1 : ∀ i, s.rxr.sampleAddr .rx i = s.sampleAddr .rx i := by
    intro i; simp [State.sampleAddr, State.bps]
  have h2 : s.rxr.bps = s.bps := by simp [State.bps]
  have h3 : ∀ i j v, (s.rxr.wr .rx j v).sampleAddr .rx i = (s.wr .rx j v).sampleAddr .rx i := by
    intro i j v; simp [State.sampleAddr, State.bps]
  have h4 : ∀ j v, (s.rxr.wr .rx j v).bps = (s.wr .rx j v).bps := by intro j v; simp [State.bps]
  cases s.frameLayout <;> simp [State.frameRxMono, State.frameRxInterleaved, State.frameRxSplit, State.rxLeft,
    State.rxRight, State.leftIndex, h1, h2, h3, h4]

theorem wr_sampleAddr (s : State) (d e : Dir) (i j v : Nat) : (s.wr d j v).sampleAddr e i = s.sampleAddr e i := rfl

theorem wr_bps (s : State) (d : Dir) (j v : Nat) : (s.wr d j v).bps = s.bps := rfl

/-- A sample write changes the bytes of its sample only. -/
theorem read_wr_outside {s : State} (hw : s.mem.wf = true) (d : Dir) (i v c : Nat)
    (hc : ∀ b, b < s.bps → c ≠ (s.sampleAddr d i + b) % addrSpace) : (s.wr d i v).mem.read c = s.mem.read c :=
  read_memWrite_outside hw _ _ _ _ hc

theorem LegalFormat.bps_le {s : State} (h : LegalFormat s) : s.bps ≤ addrSpace := by
  have := h.bps.2
  simp only [addrSpace]
  omega

theorem portValue_lt {s : State} (hf : LegalFormat s) (v : Nat) : s.portValue v < 256 ^ s.bps := by
  unfold State.portValue
  rw [hf.port]
  exact Nat.mod_lt _ (Nat.pos_of_ne_zero (by simp))

/-- A sample written reads back. -/
theorem memRead_wr_same {s : State} (hw : s.mem.wf = true) (hf : LegalFormat s) (d : Dir) (i v : Nat) :
    (s.wr d i (s.portValue v)).memRead (s.sampleAddr d i) s.bps = s.portValue v := by
  have := memRead_memWrite hw (s.sampleAddr d i) s.bps (s.portValue v) hf.bps_le
  rw [Nat.mod_eq_of_lt (portValue_lt hf v)] at this
  exact this

/-- A receive frame changes the bytes of its own samples only. -/
theorem frame_rx_outside {s : State} (hw : s.mem.wf = true) {c : Nat}
    (hc : ∀ i ∈ s.frameIndexes .rx 0, ∀ b, b < s.bps → c ≠ (s.sampleAddr .rx i + b) % addrSpace) :
    (s.frame .rx).mem.read c = s.mem.read c := by
  rw [frame_rx_mem]
  unfold State.frameIndexes at hc
  cases hl : s.frameLayout <;> rw [hl] at hc <;>
    simp only [List.mem_cons, List.not_mem_nil, or_false, Nat.add_zero, Nat.mul_zero, forall_eq_or_imp, forall_eq] at hc
  · exact read_wr_outside hw _ _ _ _ hc
  · rw [read_wr_outside (State.wr_wf hw _ _ _) _ _ _ _ hc.2]
    exact read_wr_outside hw _ _ _ _ hc.1
  · rw [read_wr_outside (State.wr_wf hw _ _ _) _ _ _ _ hc.2]
    exact read_wr_outside hw _ _ _ _ hc.1

/-- A receive frame leaves in its samples the values its entry delivered (44_pump.md R136, R138, R139). -/
theorem frame_rx_samples {s : State} (hw : s.mem.wf = true) (h : TransferCoherent s .rx) (hf : LegalFormat s)
    (hl : 0 < s.framesLeft .rx) {p : Nat × Nat} (hp : p ∈ (s.frameIndexes .rx 0).zip (s.rxValuesAt 0)) :
    (s.frame .rx).memRead (s.sampleAddr .rx p.1) s.bps = p.2 := by
  have hlt : ∀ i ∈ s.frameIndexes .rx 0, i < (s.ch.get .rx).samples.toNat := fun i => frameIndexes_lt h hf hl
  have hpar := (frame_frame s .rx).params
  have hm := frame_rx_mem s
  unfold State.rxValuesAt at hp
  rw [rxEntryAt_zero] at hp
  have two : ∀ l r, (s.frame .rx).mem = ((s.wr .rx l (s.portValue s.rxEntry.1)).wr .rx r (s.portValue s.rxEntry.2)).mem →
      l < (s.ch.get .rx).samples.toNat → r < (s.ch.get .rx).samples.toNat → l ≠ r →
      (s.frame .rx).memRead (s.sampleAddr .rx l) s.bps = s.portValue s.rxEntry.1 ∧
      (s.frame .rx).memRead (s.sampleAddr .rx r) s.bps = s.portValue s.rxEntry.2 := by
    intro l r hm' hl' hr' hne
    constructor
    · rw [← memRead_wr_same hw hf .rx l s.rxEntry.1]
      apply memRead_congr (by rw [hpar]; rfl)
      intro b hb
      rw [hm']
      exact read_wr_outside (State.wr_wf hw _ _ _) _ _ _ _ fun c hc => sampleByte_ne h hf hl' hr' hne hb hc
    · have := memRead_wr_same (s := s.wr .rx l (s.portValue s.rxEntry.1)) (State.wr_wf hw _ _ _)
        (hf.of_eq (by simp)) .rx r s.rxEntry.2
      rw [← show _ = s.portValue s.rxEntry.2 from this]
      exact memRead_congr (by rw [hpar]; rfl) fun b hb => by rw [hm']; rfl
  unfold State.frameIndexes at hp hlt
  cases hy : s.frameLayout <;> rw [hy] at hp hm hlt <;>
    simp only [List.zip_cons_cons, List.zip_nil_right, List.zip_nil_left, List.mem_cons, List.not_mem_nil, or_false,
      Nat.add_zero, Nat.mul_zero, forall_eq_or_imp, forall_eq] at hp hm hlt
  · subst hp
    have := memRead_wr_same hw hf .rx (s.ch.get .rx).index.toNat s.rxEntry.1
    rw [← show _ = s.portValue s.rxEntry.1 from this]
    exact memRead_congr (by rw [hpar]; rfl) fun b hb => by rw [hm]
  · obtain ⟨t1, t2⟩ := two _ _ hm hlt.1 hlt.2 (by omega)
    rcases hp with rfl | rfl
    · exact t1
    · exact t2
  · have h1 := h.samplesWhole
    have h4 := h.cursorIs
    have hn : s.nch = 2 := by
      rcases hf.layout with ⟨e, _⟩ | ⟨e, _⟩ | ⟨_, e⟩
      · rw [hy] at e; cases e
      · rw [hy] at e; cases e
      · exact e
    rw [hn] at h1
    obtain ⟨t1, t2⟩ := two _ _ hm hlt.1 hlt.2 (by omega)
    rcases hp with rfl | rfl
    · exact t1
    · exact t2

/-! ### A run of receive frames -/

theorem sampleAddr_frame (s : State) (d : Dir) (i : Nat) : (s.frame d).sampleAddr d i = s.sampleAddr d i := by
  unfold State.sampleAddr
  rw [bps_congr (frame_frame s d).cfg, frame_ch, PerDir.get_set_same]

/-- A run of receive frames changes the bytes of the moved frames' samples only. -/
theorem pumpFrames_rx_outside : ∀ (k : Nat) {s : State}, s.mem.wf = true → TransferCoherent s .rx → LegalFormat s →
    ∀ {c : Nat}, ¬ s.rxStoresTo (min k (s.framesLeft .rx)) c → (s.pumpFrames .rx k).mem.read c = s.mem.read c
  | 0, _, _, _, _, _, _ => rfl
  | k + 1, s, hw, h, hf, c, hc => by
    unfold State.pumpFrames
    cases hd : s.drained .rx
    · rw [if_neg (by simp)]
      have hl := framesLeft_frame h hf hd
      rw [hl, Nat.add_min_add_right] at hc
      rw [pumpFrames_rx_outside k (frame_wf .rx hw) (frame_coherent h hf hd) (frame_format .rx hf), frame_rx_outside hw]
      · intro i hi b hb he
        exact hc ⟨0, by omega, i, hi, b, hb, he⟩
      · rintro ⟨j, hj, i, hi, b, hb, he⟩
        rw [frameIndexes_frame h hf hd] at hi
        rw [bps_congr (frame_frame s .rx).cfg] at hb
        rw [sampleAddr_frame] at he
        exact hc ⟨j + 1, by omega, i, hi, b, hb, he⟩
    · simp

/-- A run of receive frames leaves in every moved frame's samples the values its entry delivered. -/
theorem pumpFrames_rx_samples : ∀ (k : Nat) {s : State}, s.mem.wf = true → TransferCoherent s .rx → LegalFormat s →
    ∀ {j : Nat}, j < min k (s.framesLeft .rx) → ∀ {p : Nat × Nat},
      p ∈ (s.frameIndexes .rx j).zip (s.rxValuesAt j) →
      (s.pumpFrames .rx k).memRead (s.sampleAddr .rx p.1) s.bps = p.2
  | 0, _, _, _, _, _, hj, _, _ => by omega
  | k + 1, s, hw, h, hf, j, hj, p, hp => by
    unfold State.pumpFrames
    cases hd : s.drained .rx
    · rw [if_neg (by simp)]
      have hl := framesLeft_frame h hf hd
      have fr := frame_frame s .rx
      cases j with
      | zero =>
        rw [← frame_rx_samples hw h hf (by omega) hp]
        apply memRead_congr ((pumpFrames_frame _ _ _).params)
        intro b hb
        apply pumpFrames_rx_outside k (frame_wf .rx hw) (frame_coherent h hf hd) (frame_format .rx hf)
        rintro ⟨m, hm, i, hi, c, hc, he⟩
        rw [frameIndexes_frame h hf hd] at hi
        rw [bps_congr fr.cfg] at hc
        rw [sampleAddr_frame] at he
        have h0 : p.1 ∈ s.frameIndexes .rx 0 := (List.of_mem_zip hp).1
        refine sampleByte_ne h hf (frameIndexes_lt h hf (by omega) h0) (frameIndexes_lt h hf (by omega) hi) ?_ hb hc he
        rintro rfl
        exact frameIndexes_disjoint h hf (j := 0) (k := m + 1) (by omega) (by omega) (by omega) h0 hi
      | succ j =>
        rw [← frameIndexes_frame h hf hd, ← rxValuesAt_frame] at hp
        have := pumpFrames_rx_samples k (frame_wf .rx hw) (frame_coherent h hf hd) (frame_format .rx hf)
          (j := j) (by omega) hp
        rwa [sampleAddr_frame, bps_congr fr.cfg] at this
    · have h0 := (framesLeft_eq_zero h hf).mpr hd
      rw [h0] at hj
      omega

/-- The entries a run of receive frames takes. -/
theorem pumpFrames_rx_entries : ∀ (k : Nat) {s : State}, TransferCoherent s .rx → LegalFormat s →
    (s.pumpFrames .rx k).rxEntries = s.rxEntries.drop (min k (s.framesLeft .rx))
  | 0, s, _, _ => by simp [State.pumpFrames]
  | k + 1, s, h, hf => by
    unfold State.pumpFrames
    cases hd : s.drained .rx
    · rw [if_neg (by simp), pumpFrames_rx_entries k (frame_coherent h hf hd) (frame_format .rx hf),
        (frame_rx_env s).1, framesLeft_frame h hf hd, Nat.add_min_add_right]
      simp
    · have h0 := (framesLeft_eq_zero h hf).mpr hd
      simp [h0]

end Sys2Proof.Machine
end

