-- ==== Sys2Proof/Laws/Activation.lean ====
section
/-! SUPPORT. What one pump invocation does to a coherent transfer in flight, said once for both directions: how far it gets, what it emits, what it stores, and when it completes (44_pump.md R130, R131, R133 to R137, R141). -/

namespace Sys2Proof.Machine

/-- The overrun latch changes nothing a transfer's coherence speaks of. -/
theorem latchIf_coherent {s : State} {d : Dir} (h : TransferCoherent s d) (ovr : Bool) :
    TransferCoherent (s.latchIf d ovr) d := by
  have fr := latchIf_frame s d ovr
  apply h.of_eq fr.params fr.cfg <;> rw [State.latchIf_ch]

theorem latchIf_format {s : State} (hf : LegalFormat s) (d : Dir) (ovr : Bool) : LegalFormat (s.latchIf d ovr) :=
  hf.of_eq (latchIf_frame s d ovr).cfg

theorem latchIf_trace (s : State) (d : Dir) (ovr : Bool) :
    (s.latchIf d ovr).trace = s.trace ++ (if ovr = true then [.ovrClr d] else []) := by
  unfold State.latchIf
  cases ovr <;> simp [State.overrunLatch]

theorem latchIf_framesLeft (s : State) (d : Dir) (ovr : Bool) : (s.latchIf d ovr).framesLeft d = s.framesLeft d := by
  unfold State.framesLeft
  rw [State.latchIf_ch, nch_congr (latchIf_frame s d ovr).cfg]

theorem latchIf_frameIndexes (s : State) (d : Dir) (ovr : Bool) (k : Nat) :
    (s.latchIf d ovr).frameIndexes d k = s.frameIndexes d k := by
  have fr := latchIf_frame s d ovr
  unfold State.frameIndexes
  rw [State.latchIf_ch, frameLayout_congr fr.params fr.cfg]

theorem latchIf_sampleAddr (s : State) (d : Dir) (ovr : Bool) (i : Nat) :
    (s.latchIf d ovr).sampleAddr d i = s.sampleAddr d i := by
  unfold State.sampleAddr
  rw [State.latchIf_ch, bps_congr (latchIf_frame s d ovr).cfg]

theorem latchIf_txFrameEvent (s : State) (ovr : Bool) : (s.latchIf .tx ovr).txFrameEvent = s.txFrameEvent := by
  have fr := latchIf_frame s .tx ovr
  have hr : ∀ i, (s.latchIf .tx ovr).rd .tx i = s.rd .tx i :=
    rd_congr fr.params fr.cfg (by simp) .tx (by rw [State.latchIf_ch])
  funext k
  unfold State.txFrameEvent
  rw [latchIf_frameIndexes]
  split <;> simp [hr]

theorem latchIf_env (s : State) (d : Dir) (ovr : Bool) :
    (s.latchIf d ovr).rxEntries = s.rxEntries ∧ (s.latchIf d ovr).draws = s.draws := by
  unfold State.latchIf
  cases ovr <;> simp [State.overrunLatch]

theorem latchIf_rxValuesAt (s : State) (d : Dir) (ovr : Bool) (k : Nat) :
    (s.latchIf d ovr).rxValuesAt k = s.rxValuesAt k := by
  obtain ⟨h1, h2⟩ := latchIf_env s d ovr
  unfold State.rxValuesAt State.portValue State.rxEntryAt
  rw [h1, h2, (latchIf_frame s d ovr).cfg]

theorem latchIf_rxFrameEvent (s : State) (d : Dir) (ovr : Bool) : (s.latchIf d ovr).rxFrameEvent = s.rxFrameEvent := by
  obtain ⟨h1, h2⟩ := latchIf_env s d ovr
  funext k
  unfold State.rxFrameEvent State.portValue State.rxEntryAt
  rw [h1, h2, (latchIf_frame s d ovr).cfg]

/-- Whether one invocation ends the transfer (44_pump.md R141). -/
def State.completesNow (s : State) (d : Dir) : Bool := decide (s.framesLeft d ≤ s.params.trig d)

/-- The callback a completing invocation emits (44_pump.md R137). -/
def State.completionEvent (s : State) (d : Dir) (ovr : Bool) : Event :=
  .cb d (if (s.ch.get d).overrun = true ∨ ovr = true then .overrun else .ok) (s.ch.get d).buffer (s.cb.get d)

/-- One invocation on a coherent transfer in flight, in the terms of its run of frames. -/
theorem pump_eq {s : State} {d : Dir} (ovr : Bool) (hb : (s.ch.get d).buffer ≠ null) (h : TransferCoherent s d)
    (hf : LegalFormat s) : s.pump d ovr =
      if s.completesNow d = true then ((s.latchIf d ovr).pumpFrames d (s.params.trig d)).complete d
      else (s.latchIf d ovr).pumpFrames d (s.params.trig d) := by
  obtain ⟨_, _, _, hd, _⟩ := pumpFrames_progress (s.params.trig d) (latchIf_coherent h ovr) (latchIf_format hf d ovr)
  rw [latchIf_framesLeft] at hd
  unfold State.completesNow
  rcases pump_cases s d ovr with ⟨hn, _⟩ | ⟨_, ⟨hd', he⟩ | ⟨hd', he⟩⟩
  · exact absurd hn hb
  · rw [hd'] at hd
    rw [he, if_neg]
    simpa using hd
  · rw [he, if_pos]
    simpa using hd.mp hd'

/-- The record one invocation leaves. -/
theorem pump_ch {s : State} {d : Dir} (ovr : Bool) (hb : (s.ch.get d).buffer ≠ null) (h : TransferCoherent s d)
    (hf : LegalFormat s) : (s.pump d ovr).ch.get d =
      if s.completesNow d = true then
        { s.ch.get d with
          buffer := null, samples := 0#32, count := (s.ch.get d).samples, index := 0#32, overrun := false }
      else { s.ch.get d with
        count := (s.ch.get d).count + BitVec.ofNat 32 (s.framesMoved d * s.nch)
        index := (s.ch.get d).index + BitVec.ofNat 32 (s.framesMoved d * (indexStep s.frameLayout).toNat)
        overrun := (s.ch.get d).overrun || ovr } := by
  have fr := latchIf_frame s d ovr
  have hc := pumpFrames_ch_eq (s.params.trig d) (latchIf_coherent h ovr) (latchIf_format hf d ovr)
  obtain ⟨_, hn, _, hd, _⟩ := pumpFrames_progress (s.params.trig d) (latchIf_coherent h ovr) (latchIf_format hf d ovr)
  rw [latchIf_framesLeft, State.latchIf_ch, nch_congr fr.cfg, frameLayout_congr fr.params fr.cfg] at hc
  rw [latchIf_framesLeft] at hd
  rw [pump_eq ovr hb h hf]
  split
  · rename_i hdone
    have hdr := (drained_iff _ d).mp (hd.mpr (by simpa [State.completesNow] using hdone))
    rw [BitVec.toNat_inj] at hdr
    rw [hc] at hdr
    rw [(complete_spec _ d).1, hc]
    simp only at hdr ⊢
    rw [hdr]
  · rw [hc]; rfl

/-- The control elements one invocation leaves. -/
theorem pump_ctl {s : State} {d : Dir} (ovr : Bool) (hb : (s.ch.get d).buffer ≠ null) (h : TransferCoherent s d)
    (hf : LegalFormat s) : (s.pump d ovr).ctl.get d =
      { s.ctl.get d with
        ovrIe := (s.ctl.get d).ovrIe && !ovr
        fifoIe := (s.ctl.get d).fifoIe && !s.completesNow d } := by
  rw [pump_eq ovr hb h hf]
  cases s.completesNow d
  · simp [State.latchIf_ctl]
  · simp [(complete_spec _ d).2.1, State.latchIf_ctl]

/-- The trace one invocation leaves, in the terms of its run of frames. -/
theorem pump_trace {s : State} {d : Dir} (ovr : Bool) (hb : (s.ch.get d).buffer ≠ null) (h : TransferCoherent s d)
    (hf : LegalFormat s) : (s.pump d ovr).trace =
      ((s.latchIf d ovr).pumpFrames d (s.params.trig d)).trace ++
        (if s.completesNow d = true then [s.completionEvent d ovr] else []) := by
  rw [pump_eq ovr hb h hf]
  cases s.completesNow d
  · simp
  · have hch := pumpFrames_ch_eq (s.params.trig d) (latchIf_coherent h ovr) (latchIf_format hf d ovr)
    rw [if_pos rfl, if_pos rfl, (complete_spec _ d).2.2.2.2, hch, State.latchIf_ch,
      (pumpFrames_frame _ _ _).cb, (latchIf_frame s d ovr).cb]
    simp [State.completionEvent, completionStatus]

/-- The events one transmit invocation emits, in their order. -/
theorem pump_tx_trace {s : State} (ovr : Bool) (hb : (s.ch.get .tx).buffer ≠ null) (h : TransferCoherent s .tx)
    (hf : LegalFormat s) : (s.pump .tx ovr).trace =
      s.trace ++ (if ovr = true then [.ovrClr .tx] else []) ++ (List.range (s.framesMoved .tx)).map s.txFrameEvent ++
        (if s.completesNow .tx = true then [s.completionEvent .tx ovr] else []) := by
  rw [pump_trace ovr hb h hf, pumpFrames_tx_trace _ (latchIf_coherent h ovr) (latchIf_format hf .tx ovr),
    latchIf_trace, latchIf_framesLeft, latchIf_txFrameEvent]
  rfl

/-- The events one receive invocation emits, in their order. -/
theorem pump_rx_trace {s : State} (ovr : Bool) (hb : (s.ch.get .rx).buffer ≠ null) (h : TransferCoherent s .rx)
    (hf : LegalFormat s) : (s.pump .rx ovr).trace =
      s.trace ++ (if ovr = true then [.ovrClr .rx] else []) ++ (List.range (s.framesMoved .rx)).map s.rxFrameEvent ++
        (if s.completesNow .rx = true then [s.completionEvent .rx ovr] else []) := by
  rw [pump_trace ovr hb h hf, pumpFrames_rx_trace _ (latchIf_coherent h ovr) (latchIf_format hf .rx ovr),
    latchIf_trace, latchIf_framesLeft, latchIf_rxFrameEvent]
  rfl

/-- Completion touches neither memory nor the FIFO's entries. -/
theorem pump_mem {s : State} {d : Dir} (ovr : Bool) (hb : (s.ch.get d).buffer ≠ null) (h : TransferCoherent s d)
    (hf : LegalFormat s) :
    (s.pump d ovr).mem = ((s.latchIf d ovr).pumpFrames d (s.params.trig d)).mem ∧
    (s.pump d ovr).rxEntries = ((s.latchIf d ovr).pumpFrames d (s.params.trig d)).rxEntries := by
  rw [pump_eq ovr hb h hf]
  split <;> simp [State.complete]

/-- A receive invocation stores into the samples of the frames it moves and nowhere else. -/
theorem pump_rx_outside {s : State} (ovr : Bool) (hw : s.mem.wf = true) (hb : (s.ch.get .rx).buffer ≠ null)
    (h : TransferCoherent s .rx) (hf : LegalFormat s) {a : Nat} (ha : ¬ s.rxStoresTo (s.framesMoved .rx) a) :
    (s.pump .rx ovr).mem.read a = s.mem.read a := by
  rw [(pump_mem ovr hb h hf).1, pumpFrames_rx_outside _ (by simpa using hw) (latchIf_coherent h ovr)
    (latchIf_format hf .rx ovr), State.latchIf_mem]
  rintro ⟨k, hk, i, hi, b, hb', he⟩
  rw [latchIf_framesLeft] at hk
  rw [latchIf_frameIndexes] at hi
  rw [bps_congr (latchIf_frame s .rx ovr).cfg] at hb'
  rw [latchIf_sampleAddr] at he
  exact ha ⟨k, hk, i, hi, b, hb', he⟩

/-- A receive invocation leaves in every moved frame's samples the values its entry delivered. -/
theorem pump_rx_samples {s : State} (ovr : Bool) (hw : s.mem.wf = true) (hb : (s.ch.get .rx).buffer ≠ null)
    (h : TransferCoherent s .rx) (hf : LegalFormat s) {k : Nat} (hk : k < s.framesMoved .rx) {p : Nat × Nat}
    (hp : p ∈ (s.frameIndexes .rx k).zip (s.rxValuesAt k)) :
    (s.pump .rx ovr).memRead (s.sampleAddr .rx p.1) s.bps = p.2 := by
  have fr := latchIf_frame s .rx ovr
  have key := pumpFrames_rx_samples (s.params.trig .rx) (s := s.latchIf .rx ovr) (by simpa using hw)
    (latchIf_coherent h ovr) (latchIf_format hf .rx ovr) (j := k) (by rw [latchIf_framesLeft]; exact hk)
    (p := p) (by rw [latchIf_frameIndexes, latchIf_rxValuesAt]; exact hp)
  rw [latchIf_sampleAddr, bps_congr fr.cfg] at key
  rw [← key]
  apply memRead_congr
  · rw [(pump_frame s .rx ovr).params, (pumpFrames_frame _ _ _).params, fr.params]
  · intro b _
    rw [(pump_mem ovr hb h hf).1]

/-- The entries a receive invocation takes. -/
theorem pump_rx_entries {s : State} (ovr : Bool) (hb : (s.ch.get .rx).buffer ≠ null) (h : TransferCoherent s .rx)
    (hf : LegalFormat s) : (s.pump .rx ovr).rxEntries = s.rxEntries.drop (s.framesMoved .rx) := by
  rw [(pump_mem ovr hb h hf).2, pumpFrames_rx_entries _ (latchIf_coherent h ovr) (latchIf_format hf .rx ovr),
    (latchIf_env s .rx ovr).1, latchIf_framesLeft]
  rfl

/-- An invocation that does not complete leaves a coherent transfer with that many frames fewer. -/
theorem pump_coherent {s : State} {d : Dir} (ovr : Bool) (hb : (s.ch.get d).buffer ≠ null) (h : TransferCoherent s d)
    (hf : LegalFormat s) (hn : s.completesNow d = false) :
    TransferCoherent (s.pump d ovr) d ∧ (s.pump d ovr).framesLeft d = s.framesLeft d - s.params.trig d := by
  obtain ⟨h1, _, _, _, h5⟩ := pumpFrames_progress (s.params.trig d) (latchIf_coherent h ovr) (latchIf_format hf d ovr)
  rw [latchIf_framesLeft] at h5
  rw [pump_eq ovr hb h hf, if_neg (by simp [hn])]
  exact ⟨h1, h5⟩

/-! ### The other direction's part of an activation -/

/-- A direction's part of the dispatcher emits events of that direction only. -/
theorem frame_events (s : State) (d : Dir) : ∃ new, (s.frame d).trace = s.trace ++ new ∧ ∀ e, e ∈ new → ∀ c, c ≠ d →
    e.isOf c = false := by
  cases d
  · simp only [State.frame, State.frameTx]
    split <;> simp [State.frameTxMono, State.frameTxInterleaved, State.frameTxSplit, Event.isOf]
  · refine ⟨_, frame_rx_trace s, ?_⟩
    simp [State.rxFrameEvent, Event.isOf]

/-- `new` are the events an operation appended, all of them of direction `d`. -/
def AppendsOf (d : Dir) (s t : State) : Prop :=
  ∃ new, t.trace = s.trace ++ new ∧ ∀ e, e ∈ new → ∀ c, c ≠ d → e.isOf c = false

theorem AppendsOf.refl (d : Dir) (s : State) : AppendsOf d s s := ⟨[], by simp, by simp⟩

theorem AppendsOf.trans {d : Dir} {s t u : State} (h : AppendsOf d s t) (k : AppendsOf d t u) : AppendsOf d s u := by
  obtain ⟨a, ha, ha'⟩ := h
  obtain ⟨b, hb, hb'⟩ := k
  refine ⟨a ++ b, by rw [hb, ha, List.append_assoc], ?_⟩
  intro e he
  rcases List.mem_append.mp he with he | he
  · exact ha' e he
  · exact hb' e he

theorem latchIf_appends (s : State) (d : Dir) (ovr : Bool) : AppendsOf d s (s.latchIf d ovr) := by
  refine ⟨_, latchIf_trace s d ovr, ?_⟩
  cases ovr <;> simp [Event.isOf]
  intro c hc
  exact Ne.symm hc

theorem pumpFrames_appends (s : State) (d : Dir) (k : Nat) : AppendsOf d s (s.pumpFrames d k) :=
  pumpFrames_induction (P := AppendsOf d s) d (fun t h _ => h.trans (frame_events t d)) k s (AppendsOf.refl d s)

theorem complete_appends (s : State) (d : Dir) : AppendsOf d s (s.complete d) := by
  refine ⟨_, (complete_spec s d).2.2.2.2, ?_⟩
  simp only [List.mem_singleton, forall_eq, Event.isOf, decide_eq_false_iff_not]
  intro c hc
  exact Ne.symm hc

theorem route_appends (s : State) (d : Dir) (b : StatusBits) : AppendsOf d s (s.route d b) := by
  rcases route_cases s d b with ⟨_, h⟩ | ⟨_, _, ⟨_, h⟩ | ⟨_, h⟩⟩ <;> rw [h]
  · exact AppendsOf.refl d s
  · refine ⟨[.ovrClr d, .log (.errDmaOverrun d)], by simp [State.dmaOverrun], ?_⟩
    simp only [List.mem_cons, List.not_mem_nil, or_false, forall_eq_or_imp, forall_eq, Event.isOf,
      decide_eq_false_iff_not]
    exact ⟨fun c hc => Ne.symm hc, fun c hc => Ne.symm hc⟩
  · have hl := latchIf_appends s d b.ovr
    have hf := hl.trans (pumpFrames_appends (s.latchIf d b.ovr) d (s.params.trig d))
    rcases pump_cases s d b.ovr with ⟨_, e⟩ | ⟨_, ⟨_, e⟩ | ⟨_, e⟩⟩ <;> rw [e]
    · exact hl
    · exact hf
    · exact hf.trans (complete_appends _ d)

/-- The transmit part takes no entry of the receive FIFO and no draw. -/
theorem route_tx_env (s : State) (b : StatusBits) :
    (s.route .tx b).rxEntries = s.rxEntries ∧ (s.route .tx b).draws = s.draws := by
  have hfr : ∀ t : State, (t.frame .tx).rxEntries = t.rxEntries ∧ (t.frame .tx).draws = t.draws := by
    intro t
    simp only [State.frame, State.frameTx]
    split <;> simp [State.frameTxMono, State.frameTxInterleaved, State.frameTxSplit]
  have hpf : ∀ (t : State) (k : Nat), (t.pumpFrames .tx k).rxEntries = t.rxEntries ∧
      (t.pumpFrames .tx k).draws = t.draws := by
    intro t k
    exact pumpFrames_induction (P := fun u => u.rxEntries = t.rxEntries ∧ u.draws = t.draws) .tx
      (fun u h _ => ⟨(hfr u).1.trans h.1, (hfr u).2.trans h.2⟩) k t ⟨rfl, rfl⟩
  have hl := latchIf_env s .tx b.ovr
  rcases route_cases s .tx b with ⟨_, h⟩ | ⟨_, _, ⟨_, h⟩ | ⟨_, h⟩⟩ <;> rw [h]
  · exact ⟨rfl, rfl⟩
  · simp [State.dmaOverrun]
  · rcases pump_cases s .tx b.ovr with ⟨_, e⟩ | ⟨_, ⟨_, e⟩ | ⟨_, e⟩⟩ <;> rw [e]
    · exact hl
    · rw [(hpf _ _).1, (hpf _ _).2]; exact hl
    · simp [State.complete, hpf, hl]

end Sys2Proof.Machine
end

