-- ==== Sys2Proof/Laws/Command.lean ====
section
/-! SUPPORT. What `SEND`, `RECEIVE` and `DISABLE` can do, said once. -/

namespace Sys2Proof.Machine

/-- Everything an arm does to its direction in pump mode (42_arm.md R110 to R113). -/
theorem armPump_eq (s : State) (d : Dir) :
    ((s.borrow d).armPump d).finish .ok =
      { s with
        ch := s.ch.set d { s.ch.get d with
          buffer := s.x0, blockBytes := s.x1, samples := BitVec.ofNat 32 (s.x1.toNat / s.bps),
          count := 0#32, index := 0#32, running := true }
        ctl := s.ctl.set d { s.ctl.get d with
          chanEn := (s.ctl.get d).chanEn || !(s.ch.get d).running
          blkEn := (s.ctl.get d).blkEn || !(s.ch.get d).running
          fifoIe := true, ovrIe := true }
        res := 0#32
        trace := s.trace ++ [.result .ok] } := by
  have hb : (s.borrow d).bps = s.bps := rfl
  unfold State.armPump
  cases hr : (s.ch.get d).running <;>
    simp [State.borrow, State.initCursors, State.rearm, State.freshStart, State.setCh, State.setCtl, State.finish,
      State.emit, ResultCode.word, hr, State.argLength, State.argBuffer, State.bps]

/-- The state before the engine is asked: the buffer is borrowed and, for a transmit, cleaned from the cache. -/
def dmaPrepared (s : State) (d : Dir) : State := (s.borrow d).cleanForTx d

/-- The state after the engine's first answer. -/
def dmaConfigured (s : State) (d : Dir) : State :=
  (dmaPrepared s d).dmaRequest (.dmaCfg d ((dmaPrepared s d).desc d))

/-- The state after the engine's second answer. -/
def dmaStarted (s : State) (d : Dir) : State := (dmaConfigured s d).dmaRequest (.dmaStart d)

/-- Everything `ARM(d)` can do (42_arm.md R110; 43_dma.md R120, R121). -/
theorem arm_cases (s : State) (d : Dir) :
    ((s.x0 = null ∨ s.x1 = 0#32) ∧ s.arm d = s.finish .invalidArgument) ∨
    (s.x0 ≠ null ∧ s.x1 ≠ 0#32 ∧ (s.ch.get d).buffer ≠ null ∧ s.arm d = s.finish .inProgress) ∨
    (s.x0 ≠ null ∧ s.x1 ≠ 0#32 ∧ (s.ch.get d).buffer = null ∧ s.x1.toNat % s.frameBytes ≠ 0 ∧
      s.arm d = s.finish .invalidArgument) ∨
    (s.x0 ≠ null ∧ s.x1 ≠ 0#32 ∧ (s.ch.get d).buffer = null ∧ s.x1.toNat % s.frameBytes = 0 ∧
      ((s.params.dma d = false ∧ s.arm d = ((s.borrow d).armPump d).finish .ok) ∨
        (s.params.dma d = true ∧
          (((dmaPrepared s d).dmaAnswer ≠ 0#32 ∧
              s.arm d = (dmaConfigured s d).rollback d (dmaPrepared s d).dmaAnswer) ∨
            ((dmaPrepared s d).dmaAnswer = 0#32 ∧ (dmaConfigured s d).dmaAnswer ≠ 0#32 ∧
              s.arm d = (dmaStarted s d).rollback d (dmaConfigured s d).dmaAnswer) ∨
            ((dmaPrepared s d).dmaAnswer = 0#32 ∧ (dmaConfigured s d).dmaAnswer = 0#32 ∧
              s.arm d = ((dmaStarted s d).startDmaChannel d).finish .ok))))) := by
  unfold State.arm State.argBuffer State.argLength
  by_cases h1 : s.x0 = null ∨ s.x1 = 0#32
  · exact .inl ⟨h1, by simp [h1]⟩
  · have h1' : s.x0 ≠ null ∧ s.x1 ≠ 0#32 := by simpa [not_or] using h1
    by_cases h2 : (s.ch.get d).buffer ≠ null
    · exact .inr (.inl ⟨h1'.1, h1'.2, h2, by simp [h1, h2]⟩)
    · have h2' : (s.ch.get d).buffer = null := by simpa using h2
      by_cases h3 : s.x1.toNat % s.frameBytes ≠ 0
      · exact .inr (.inr (.inl ⟨h1'.1, h1'.2, h2', h3, by simp [h1, h2', h3]⟩))
      · have h3' : s.x1.toNat % s.frameBytes = 0 := by simpa using h3
        refine .inr (.inr (.inr ⟨h1'.1, h1'.2, h2', h3', ?_⟩))
        simp only [h1, h2', h3', if_false, ne_eq, not_true_eq_false, State.armAccepted]
        cases hd : s.params.dma d
        · exact .inl ⟨rfl, by simp⟩
        · refine .inr ⟨rfl, ?_⟩
          simp only [if_true, State.armDma, State.armDmaConfigure, State.armDmaStart]
          by_cases h4 : (dmaPrepared s d).dmaAnswer = 0#32
          · by_cases h5 : (dmaConfigured s d).dmaAnswer = 0#32
            · refine .inr (.inr ⟨h4, h5, ?_⟩)
              simp only [dmaStarted, dmaConfigured, dmaPrepared] at h4 h5 ⊢
              simp [h4, h5]
            · refine .inr (.inl ⟨h4, h5, ?_⟩)
              simp only [dmaStarted, dmaConfigured, dmaPrepared] at h4 h5 ⊢
              simp [h4, h5]
          · refine .inl ⟨h4, ?_⟩
            simp only [dmaConfigured, dmaPrepared] at h4 ⊢
            simp [h4]

/-- A `SEND` or `RECEIVE` answers a next state exactly with a valid configuration and a registered callback (42_arm.md R116). -/
theorem armCommand_cases (d : Dir) (s : State) :
    (s.cfgValid = false ∧ armCommand d s = .refused .unconfigured) ∨
    (s.cfgValid = true ∧ s.cb.get d = 0#32 ∧ armCommand d s = .refused .noCallback) ∨
    (s.cfgValid = true ∧ s.cb.get d ≠ 0#32 ∧ armCommand d s = .next (s.arm d)) := by
  unfold armCommand
  cases s.cfgValid
  · simp
  · by_cases h : s.cb.get d = 0#32 <;> simp [h]

/-- The new part of the trace after the buffer of direction `d` is borrowed and cleaned. -/
def cleanEvents (s : State) : Dir → List Event
  | .tx => [.cacheClean s.x0 s.x1]
  | .rx => []

theorem dmaPrepared_eq (s : State) (d : Dir) :
    dmaPrepared s d =
      { s with ch := s.ch.set d { s.ch.get d with buffer := s.x0, blockBytes := s.x1 }
               trace := s.trace ++ cleanEvents s d } := by
  cases d <;> simp [dmaPrepared, State.borrow, State.cleanForTx, State.setCh, State.emit, cleanEvents,
    State.argBuffer, State.argLength]

/-! ### `DISABLE_ONE` -/

/-- The events of the engine's stop (46_disable.md R160 line 1). -/
def stopEvents (s : State) (d : Dir) : List Event :=
  if s.params.dma d then
    .dmaStop d s.dmaAnswer :: (if s.dmaAnswer ≠ 0#32 then [.log (.errDmaStop d s.dmaAnswer)] else [])
  else []

/-- Everything `DISABLE_ONE(d)` does (46_disable.md R160). -/
theorem disableOne_eq (s : State) (d : Dir) :
    s.disableOne d =
      { s with
        ch := s.ch.set d (disabledChannel (s.ch.get d))
        ctl := s.ctl.set d (disabledCtl (s.ctl.get d))
        trace := s.trace ++ (stopEvents s d ++ [.fifoClr d])
        dmaAnswers := if s.params.dma d then s.dmaAnswers.tail else s.dmaAnswers
        draws := if s.params.dma d ∧ s.dmaAnswers = [] then s.draws + 1 else s.draws } := by
  unfold State.disableOne State.stopDma stopEvents State.dmaRequest State.dmaAnswered
  cases s.params.dma d
  · simp [State.resetDir, State.setCh, State.setCtl, State.emit]
  · cases hq : s.dmaAnswers <;> simp only [if_true] <;> split <;>
      simp [State.resetDir, State.setCh, State.setCtl, State.emit]

end Sys2Proof.Machine
end

