-- ==== Sys2Proof/Laws/Arm.lean ====
section
/-! SUPPORT. The states a DMA-mode arm and a `DISABLE` leave, field by field, with the engine's answers by their number (43_dma.md R120, R121; 46_disable.md R160). -/

namespace Sys2Proof.Machine

theorem dmaAnswerAt_zero (s : State) : s.dmaAnswerAt 0 = s.dmaAnswer := by
  unfold State.dmaAnswerAt State.dmaAnswer
  cases s.dmaAnswers <;> simp

/-- The answer after `k` answers used up. -/
theorem dmaAnswer_of {s t : State} {k : Nat} (ha : t.dmaAnswers = s.dmaAnswers.drop k)
    (hd : t.draws = s.draws + (k - s.dmaAnswers.length)) : t.dmaAnswer = s.dmaAnswerAt k := by
  unfold State.dmaAnswer State.dmaAnswerAt
  rw [ha, hd]
  by_cases h : k < s.dmaAnswers.length
  · rw [List.drop_eq_getElem_cons h, List.getElem?_eq_getElem h]
  · rw [List.drop_eq_nil_of_le (by omega), List.getElem?_eq_none (by omega)]

theorem dmaPrepared_answer (s : State) (d : Dir) : (dmaPrepared s d).dmaAnswer = s.dmaAnswerAt 0 := by
  apply dmaAnswer_of <;> rw [dmaPrepared_eq] <;> simp

theorem armDescriptor_eq (s : State) (d : Dir) : (dmaPrepared s d).desc d = s.armDescriptor d := by
  rw [dmaPrepared_eq]
  cases d <;> simp [State.desc, State.armDescriptor, Params.trig, Params.periphAddr]

theorem cleanEvents_eq (s : State) (d : Dir) : cleanEvents s d = s.armCleanEvents d := by
  cases d <;> rfl

/-- The state after the engine's first answer. -/
theorem dmaConfigured_eq (s : State) (d : Dir) :
    dmaConfigured s d =
      { s with
        ch := s.ch.set d { s.ch.get d with buffer := s.x0, blockBytes := s.x1 }
        dmaAnswers := s.dmaAnswers.drop 1
        draws := s.draws + (1 - s.dmaAnswers.length)
        trace := s.trace ++ s.armCleanEvents d ++ [.dmaCfg d (s.armDescriptor d) (s.dmaAnswerAt 0)] } := by
  unfold dmaConfigured State.dmaRequest State.dmaAnswered
  rw [dmaPrepared_answer, armDescriptor_eq, dmaPrepared_eq, cleanEvents_eq]
  cases h : s.dmaAnswers <;> simp [State.emit]

theorem dmaConfigured_answer (s : State) (d : Dir) : (dmaConfigured s d).dmaAnswer = s.dmaAnswerAt 1 := by
  apply dmaAnswer_of <;> rw [dmaConfigured_eq]

/-- The state after the engine's second answer. -/
theorem dmaStarted_eq (s : State) (d : Dir) :
    dmaStarted s d =
      { s with
        ch := s.ch.set d { s.ch.get d with buffer := s.x0, blockBytes := s.x1 }
        dmaAnswers := s.dmaAnswers.drop 2
        draws := s.draws + (2 - s.dmaAnswers.length)
        trace := s.trace ++ s.armCleanEvents d ++
          [.dmaCfg d (s.armDescriptor d) (s.dmaAnswerAt 0), .dmaStart d (s.dmaAnswerAt 1)] } := by
  unfold dmaStarted State.dmaRequest State.dmaAnswered
  rw [dmaConfigured_answer, dmaConfigured_eq]
  rcases h : s.dmaAnswers with _ | ⟨a, _ | ⟨b, r⟩⟩ <;> simp [State.emit]

/-- The rollback of a failed configure request. -/
theorem rollbackConfigured_eq (s : State) (d : Dir) (st : Word) :
    (dmaConfigured s d).rollback d st =
      { s with
        ch := s.ch.set d { s.ch.get d with buffer := null, blockBytes := s.x1 }
        x3 := st
        res := 4#32
        dmaAnswers := s.dmaAnswers.drop 1
        draws := s.draws + (1 - s.dmaAnswers.length)
        trace := s.trace ++ s.armCleanEvents d ++
          [.dmaCfg d (s.armDescriptor d) (s.dmaAnswerAt 0), .result .transportError] } := by
  rw [dmaConfigured_eq]
  simp [State.rollback, State.finishWith, State.setCh, State.finish, State.emit, ResultCode.word]

/-- The rollback of a failed start request. -/
theorem rollbackStarted_eq (s : State) (d : Dir) (st : Word) :
    (dmaStarted s d).rollback d st =
      { s with
        ch := s.ch.set d { s.ch.get d with buffer := null, blockBytes := s.x1 }
        x3 := st
        res := 4#32
        dmaAnswers := s.dmaAnswers.drop 2
        draws := s.draws + (2 - s.dmaAnswers.length)
        trace := s.trace ++ s.armCleanEvents d ++ [.dmaCfg d (s.armDescriptor d) (s.dmaAnswerAt 0),
          .dmaStart d (s.dmaAnswerAt 1), .result .transportError] } := by
  rw [dmaStarted_eq]
  simp [State.rollback, State.finishWith, State.setCh, State.finish, State.emit, ResultCode.word]

/-- The state an accepted DMA-mode arm leaves. -/
theorem startedOk_eq (s : State) (d : Dir) :
    ((dmaStarted s d).startDmaChannel d).finish .ok =
      { s with
        ch := s.ch.set d { s.ch.get d with buffer := s.x0, blockBytes := s.x1, running := true }
        ctl := if (s.ch.get d).running = true then s.ctl
          else s.ctl.set d { s.ctl.get d with chanEn := true, blkEn := true, ovrIe := true }
        res := 0#32
        dmaAnswers := s.dmaAnswers.drop 2
        draws := s.draws + (2 - s.dmaAnswers.length)
        trace := s.trace ++ s.armCleanEvents d ++ [.dmaCfg d (s.armDescriptor d) (s.dmaAnswerAt 0),
          .dmaStart d (s.dmaAnswerAt 1), .result .ok] } := by
  rw [dmaStarted_eq]
  unfold State.startDmaChannel
  cases h : (s.ch.get d).running <;>
    simp [State.setCh, State.setCtl, State.finish, State.emit, ResultCode.word, h]

/-- The states an arm can leave: a rejection, or one of the four accepted courses, each field by field (42_arm.md R110; 43_dma.md R120, R121). -/
theorem arm_outcomes (s : State) (d : Dir) :
    ((s.x0 = null ∨ s.x1 = 0#32) ∧ s.arm d = s.finish .invalidArgument) ∨
    (s.x0 ≠ null ∧ s.x1 ≠ 0#32 ∧ (s.ch.get d).buffer ≠ null ∧ s.arm d = s.finish .inProgress) ∨
    (s.x0 ≠ null ∧ s.x1 ≠ 0#32 ∧ (s.ch.get d).buffer = null ∧ s.x1.toNat % s.frameBytes ≠ 0 ∧
      s.arm d = s.finish .invalidArgument) ∨
    (s.x0 ≠ null ∧ s.x1 ≠ 0#32 ∧ (s.ch.get d).buffer = null ∧ s.x1.toNat % s.frameBytes = 0 ∧
      ((s.params.dma d = false ∧ s.arm d = ((s.borrow d).armPump d).finish .ok) ∨
        (s.params.dma d = true ∧
          ((s.dmaAnswerAt 0 ≠ 0#32 ∧ s.arm d = (dmaConfigured s d).rollback d (s.dmaAnswerAt 0)) ∨
            (s.dmaAnswerAt 0 = 0#32 ∧ s.dmaAnswerAt 1 ≠ 0#32 ∧
              s.arm d = (dmaStarted s d).rollback d (s.dmaAnswerAt 1)) ∨
            (s.dmaAnswerAt 0 = 0#32 ∧ s.dmaAnswerAt 1 = 0#32 ∧
              s.arm d = ((dmaStarted s d).startDmaChannel d).finish .ok))))) := by
  have h := arm_cases s d
  rwa [dmaPrepared_answer, dmaConfigured_answer] at h

/-- What an arm leaves of its own direction's record and controls. -/
theorem arm_own (s : State) (d : Dir) :
    ((s.arm d).ch.get d = s.ch.get d ∧ (s.arm d).ctl.get d = s.ctl.get d ∧ (s.arm d).res ≠ 0#32) ∨
    (s.x0 ≠ null ∧ (s.ch.get d).buffer = null ∧ s.x1.toNat % s.frameBytes = 0 ∧ s.params.dma d = false ∧
      (s.arm d).res = 0#32 ∧
      (s.arm d).ch.get d = { s.ch.get d with
        buffer := s.x0, blockBytes := s.x1, samples := BitVec.ofNat 32 (s.x1.toNat / s.bps)
        count := 0#32, index := 0#32, running := true } ∧
      (s.arm d).ctl.get d = { s.ctl.get d with
        chanEn := (s.ctl.get d).chanEn || !(s.ch.get d).running
        blkEn := (s.ctl.get d).blkEn || !(s.ch.get d).running
        fifoIe := true, ovrIe := true }) ∨
    ((s.ch.get d).buffer = null ∧ s.params.dma d = true ∧ (s.arm d).res = 4#32 ∧
      (s.arm d).ch.get d = { s.ch.get d with buffer := null, blockBytes := s.x1 } ∧
      (s.arm d).ctl.get d = s.ctl.get d) ∨
    (s.x0 ≠ null ∧ (s.ch.get d).buffer = null ∧ s.params.dma d = true ∧ (s.arm d).res = 0#32 ∧
      (s.arm d).ch.get d = { s.ch.get d with buffer := s.x0, blockBytes := s.x1, running := true } ∧
      (s.arm d).ctl.get d = { s.ctl.get d with
        chanEn := (s.ctl.get d).chanEn || !(s.ch.get d).running
        blkEn := (s.ctl.get d).blkEn || !(s.ch.get d).running
        ovrIe := (s.ctl.get d).ovrIe || !(s.ch.get d).running }) := by
  rcases arm_outcomes s d with ⟨_, h⟩ | ⟨_, _, _, h⟩ | ⟨_, _, _, _, h⟩ |
    ⟨hx, _, hb, hl, ⟨hd, h⟩ | ⟨hd, ⟨_, h⟩ | ⟨_, _, h⟩ | ⟨_, _, h⟩⟩⟩ <;> rw [h]
  · exact .inl ⟨rfl, rfl, by simp [State.finish, ResultCode.word]⟩
  · exact .inl ⟨rfl, rfl, by simp [State.finish, ResultCode.word]⟩
  · exact .inl ⟨rfl, rfl, by simp [State.finish, ResultCode.word]⟩
  · rw [armPump_eq]
    exact .inr (.inl ⟨hx, hb, hl, hd, rfl, PerDir.get_set_same _ _ _, PerDir.get_set_same _ _ _⟩)
  · rw [rollbackConfigured_eq]
    exact .inr (.inr (.inl ⟨hb, hd, rfl, PerDir.get_set_same _ _ _, rfl⟩))
  · rw [rollbackStarted_eq]
    exact .inr (.inr (.inl ⟨hb, hd, rfl, PerDir.get_set_same _ _ _, rfl⟩))
  · rw [startedOk_eq]
    refine .inr (.inr (.inr ⟨hx, hb, hd, rfl, PerDir.get_set_same _ _ _, ?_⟩))
    cases hr : (s.ch.get d).running <;> simp

/-- An arm leaves the opposite direction alone. -/
theorem arm_other (s : State) {d e : Dir} (he : e ≠ d) :
    (s.arm d).ch.get e = s.ch.get e ∧ (s.arm d).ctl.get e = s.ctl.get e := by
  rcases arm_outcomes s d with ⟨_, h⟩ | ⟨_, _, _, h⟩ | ⟨_, _, _, _, h⟩ |
    ⟨_, _, _, _, ⟨_, h⟩ | ⟨_, ⟨_, h⟩ | ⟨_, _, h⟩ | ⟨_, _, h⟩⟩⟩ <;> rw [h]
  · exact ⟨rfl, rfl⟩
  · exact ⟨rfl, rfl⟩
  · exact ⟨rfl, rfl⟩
  · rw [armPump_eq]
    exact ⟨PerDir.get_set_other _ _ _ _ he, PerDir.get_set_other _ _ _ _ he⟩
  · rw [rollbackConfigured_eq]
    exact ⟨PerDir.get_set_other _ _ _ _ he, rfl⟩
  · rw [rollbackStarted_eq]
    exact ⟨PerDir.get_set_other _ _ _ _ he, rfl⟩
  · rw [startedOk_eq]
    refine ⟨PerDir.get_set_other _ _ _ _ he, ?_⟩
    cases hr : (s.ch.get d).running <;> simp [PerDir.get_set_other, he]

/-! ### `DISABLE` -/

theorem disableOne_outcome (s : State) (d : Dir) :
    s.disableOne d =
      { s with
        ch := s.ch.set d { s.ch.get d with
          buffer := null, samples := 0#32, count := 0#32, index := 0#32, running := false, overrun := false }
        ctl := s.ctl.set d { s.ctl.get d with chanEn := false, blkEn := false, fifoIe := false, ovrIe := false }
        dmaAnswers := s.dmaAnswers.drop (s.params.dma d).toNat
        draws := s.draws + ((s.params.dma d).toNat - s.dmaAnswers.length)
        trace := s.trace ++ s.stopEventsAt d 0 ++ [.fifoClr d] } := by
  rw [disableOne_eq]
  unfold stopEvents State.stopEventsAt
  rw [dmaAnswerAt_zero]
  cases s.params.dma d <;> cases h : s.dmaAnswers <;> simp [disabledChannel, disabledCtl]

/-- A `DISABLE_ONE` leaves the opposite direction alone. -/
theorem disableOne_other (s : State) {d e : Dir} (he : e ≠ d) :
    (s.disableOne d).ch.get e = s.ch.get e ∧ (s.disableOne d).ctl.get e = s.ctl.get e := by
  rw [disableOne_outcome]
  exact ⟨PerDir.get_set_other _ _ _ _ he, PerDir.get_set_other _ _ _ _ he⟩

end Sys2Proof.Machine
end

