-- ==== Sys2Proof/Laws/Clock.lean ====
section
/-! SUPPORT. What the Clock/Divisor Calculator and `CONFIGURE` can do, said once. -/

namespace Sys2Proof.Machine

/-- The lookup succeeds exactly on the three legal depths (40_clock_divisor.md R94). -/
theorem wssLookup_isSome (p : Params) (depth : Word) :
    (wssLookup p depth).isSome = true ↔ depth = 16#32 ∨ depth = 24#32 ∨ depth = 32#32 := by
  unfold wssLookup
  split
  · simp_all
  · split
    · simp_all
    · split <;> simp_all

theorem wssLookup_some {p : Params} {depth : Word} {w : Nat} (h : wssLookup p depth = some w) :
    depth = 16#32 ∨ depth = 24#32 ∨ depth = 32#32 :=
  (wssLookup_isSome p depth).mp (by simp [h])

/-- The range check in its own terms (R92). -/
theorem divisorInRange_iff (d : Nat) : divisorInRange d = true ↔ 2 ≤ d ∧ d ≤ 1023 := by
  simp only [divisorInRange, Bool.and_eq_true, decide_eq_true_eq]
  exact Iff.rfl

/-- The equivalent form of the range check (R92). -/
theorem divisorInRange_div {hz bclk : Nat} (hb : 0 < bclk) :
    divisorInRange (hz / bclk) = true ↔ 2 * bclk ≤ hz ∧ hz < 1024 * bclk := by
  rw [divisorInRange_iff, Nat.le_div_iff_mul_le hb]
  have h : hz / bclk ≤ 1023 ↔ hz < 1024 * bclk := by
    rw [← Nat.lt_succ_iff, Nat.div_lt_iff_lt_mul hb]
  rw [h]

/-- Everything `CLKDIV` answers when it succeeds (R91 to R93, R96). -/
theorem clkDivOf_some {p : Params} {depth rate : Word} {c : ClkOut} (h : clkDivOf p depth rate = some c) :
    rate ≠ 0#32 ∧ c.bclk = requestedBclk depth rate ∧ c.divisor = p.clockSourceHz / c.bclk ∧
    (2 ≤ c.divisor ∧ c.divisor ≤ 1023) ∧ c.achieved = p.clockSourceHz / c.divisor ∧
    (c.warn = true ↔ c.achieved ≠ c.bclk) := by
  unfold clkDivOf at h
  split at h
  · cases h
  · rename_i hr
    split at h
    · rename_i hd
      cases h
      exact ⟨hr, rfl, rfl, (divisorInRange_iff _).mp hd, rfl, by simp [clkOutFor, clockWarning]⟩
    · cases h

/-- `CLKDIV` fails exactly on a zero rate or a divisor out of range (R92, R96). -/
theorem clkDivOf_none (p : Params) (depth rate : Word) :
    clkDivOf p depth rate = none ↔
      rate = 0#32 ∨ ¬ (2 ≤ p.clockSourceHz / requestedBclk depth rate ∧
        p.clockSourceHz / requestedBclk depth rate ≤ 1023) := by
  unfold clkDivOf
  split
  · simp_all
  · rename_i hr
    split
    · rename_i hd
      simp [hr, (divisorInRange_iff _).mp hd]
    · rename_i hd
      rw [divisorInRange_iff] at hd
      simp [hr, hd]

/-- `achieved >= bclk` (R98 item 3). -/
theorem clkDivOf_achieved_ge {p : Params} {depth rate : Word} {c : ClkOut}
    (h : clkDivOf p depth rate = some c) : c.bclk ≤ c.achieved := by
  obtain ⟨_, _, hd, hr, ha, _⟩ := clkDivOf_some h
  rw [ha, Nat.le_div_iff_mul_le (by omega)]
  rw [hd]
  calc c.bclk * (p.clockSourceHz / c.bclk) = p.clockSourceHz / c.bclk * c.bclk := Nat.mul_comm _ _
    _ ≤ p.clockSourceHz := Nat.div_mul_le_self _ _

/-- The bounds of 00_scope.md R11 are exactly those under which the source's own example succeeds. -/
theorem clockFitsExample_iff (p : Params) :
    p.spec.clockFitsExample = true ↔ (clkDivOf p 16#32 48000#32).isSome = true := by
  have h : divisorInRange (p.clockSourceHz / requestedBclk 16#32 48000#32) = true ↔
      2 * 1536000 ≤ p.clockSourceHz ∧ p.clockSourceHz < 1024 * 1536000 := divisorInRange_div (by decide)
  unfold clkDivOf
  rw [if_neg (by decide)]
  have e : p.spec.clockFitsExample = true ↔ divisorInRange (p.clockSourceHz / requestedBclk 16#32 48000#32) = true := by
    rw [h]
    simp only [ParamSpec.clockFitsExample, Bool.and_eq_true, decide_eq_true_eq]
    exact Iff.rfl
  rw [e]
  split <;> simp [*]

/-- On an instance R11 allows, the achieved bit clock fits its 32-bit register whole (10_state.md R25, R35). -/
theorem achieved_toNat {p : Params} (hp : p.spec.clockFitsExample = true) {depth rate : Word} {c : ClkOut}
    (h : clkDivOf p depth rate = some c) : (BitVec.ofNat 32 c.achieved).toNat = c.achieved := by
  obtain ⟨_, _, _, _, ha, _⟩ := clkDivOf_some h
  simp only [ParamSpec.clockFitsExample, Bool.and_eq_true, decide_eq_true_eq] at hp
  have hb : p.clockSourceHz < 2 ^ 32 := Nat.lt_trans hp.2 (by decide)
  rw [BitVec.toNat_ofNat, ha]
  exact Nat.mod_eq_of_lt (Nat.lt_of_le_of_lt (Nat.div_le_self _ _) hb)

/-! ### `CONFIGURE` -/

/-- Everything `CONFIGURE` can do (41_configure.md R100): rejected arguments, a divisor failure after the quiesce, or success. -/
theorem configure_cases (s : State) :
    (((wssLookup s.params s.x1 = none) ∨ (s.x2 ≠ 1#32 ∧ s.x2 ≠ 2#32)) ∧ s.configure = s.finish .invalidConfig) ∨
    (∃ w, wssLookup s.params s.x1 = some w ∧ (s.x2 = 1#32 ∨ s.x2 = 2#32) ∧
      ((clkDivOf s.params s.x1 s.x0 = none ∧ s.configure = s.quiesce.invalidateCfg.finish .invalidConfig) ∨
        ∃ c, clkDivOf s.params s.x1 s.x0 = some c ∧ s.configure = s.quiesce.configureWith w c s.argConfig)) := by
  unfold State.configure State.configureChecked State.argBitDepth State.argChannelCount State.argSampleRate
  cases hw : wssLookup s.params s.x1 with
  | none => exact .inl ⟨.inl rfl, rfl⟩
  | some w =>
    by_cases hn : s.x2 ≠ 1#32 ∧ s.x2 ≠ 2#32
    · exact .inl ⟨.inr hn, by simp [hn]⟩
    · refine .inr ⟨w, rfl, by simpa [Decidable.or_iff_not_imp_left] using hn, ?_⟩
      cases hc : clkDivOf s.params s.x1 s.x0 with
      | none => exact .inl ⟨rfl, by simp [hn]⟩
      | some c => exact .inr ⟨c, rfl, by simp [hn]⟩

/-- The state a successful `CONFIGURE` leaves, field by field (41_configure.md R102, R104 to R106, R108). -/
theorem configureWith_eq (s : State) (w : Nat) (c : ClkOut) (g : DeviceConfig) :
    s.quiesce.configureWith w c g =
      { s with
        ctl := { tx := { quiesceCtl s.ctl.tx with wlen := g.bitDepth.setWidth 6 },
                 rx := { quiesceCtl s.ctl.rx with wlen := g.bitDepth.setWidth 6 } }
        clkDiv := BitVec.ofNat 10 c.divisor, wss := w, clkEn := true
        cfg := g, cfgValid := true, achievedBclk := BitVec.ofNat 32 c.achieved, clkWarn := c.warn
        res := 0#32
        trace := s.trace ++ ([.fifoClr .tx, .fifoClr .rx] ++
          (if c.warn then [.log (.warnClkInexact c.bclk c.achieved)] else []) ++ [.result .ok]) } := by
  unfold State.configureWith State.logInexact
  split <;>
    simp [State.quiesce, State.programClock, State.programWlen, State.commitCfg, State.emit, State.finish,
      ResultCode.word, *]

end Sys2Proof.Machine
end

