-- ==== Sys2Proof/Laws/Step.lean ====
section
/-! SUPPORT. Everything an operation and a step can do, said once. -/

namespace Sys2Proof.Machine

/-- Every operation that answers, answers a next state made by one of these transformers. -/
theorem exec_cases {i : Instr} {s t : State} (h : exec i s = .next t) :
    (i = .configure ∧ t = s.configure) ∨
    (i = .registerCallbackTx ∧ t = s.registerCallback .tx) ∨
    (i = .registerCallbackRx ∧ t = s.registerCallback .rx) ∨
    (i = .send ∧ s.cfgValid = true ∧ s.cb.get .tx ≠ 0#32 ∧ t = s.arm .tx) ∨
    (i = .receive ∧ s.cfgValid = true ∧ s.cb.get .rx ≠ 0#32 ∧ t = s.arm .rx) ∨
    (i = .disableTx ∧ t = (s.disableOne .tx).finish .ok) ∨
    (i = .disableRx ∧ t = (s.disableOne .rx).finish .ok) ∨
    (i = .disableBoth ∧ t = ((s.disableOne .tx).disableOne .rx).finish .ok) ∨
    (i = .getConfig ∧ t = s.getConfig) ∨
    (∃ r, i = .irq r ∧ t = (s.enterIrq r).dispatch (s.status r)) ∨
    (∃ d st, i = .dmaDone d st ∧ t = s.dmaDone d st) := by
  have arms : ∀ d, armCommand d s = .next t → s.cfgValid = true ∧ s.cb.get d ≠ 0#32 ∧ t = s.arm d := by
    intro d hd
    rcases armCommand_cases d s with ⟨_, e⟩ | ⟨_, _, e⟩ | ⟨hv, hc, e⟩ <;> rw [e] at hd
    · cases hd
    · cases hd
    · cases hd; exact ⟨hv, hc, rfl⟩
  cases i with
  | send => simpa using arms .tx h
  | receive => simpa using arms .rx h
  | _ => cases h; simp [State.leaveIrq]

/-- No operation of the block answers a fault (60_exceptions.md R184, 20_memory.md R54). -/
theorem exec_no_fault (i : Instr) (s : State) (f : Fault) : exec i s ≠ .fault f := by
  have arms : ∀ d, armCommand d s ≠ .fault f := by
    intro d hd
    rcases armCommand_cases d s with ⟨_, e⟩ | ⟨_, _, e⟩ | ⟨_, _, e⟩ <;> rw [e] at hd <;> cases hd
  cases i with
  | send => exact arms .tx
  | receive => exact arms .rx
  | _ => exact fun h => by cases h

/-- The event ports reject nothing (30_encoding.md R75). -/
theorem decode_error {a : Arrival} {e : Reject} (h : decode a = .error e) : ∃ w, a = .cmd w := by
  cases a with
  | cmd w => exact ⟨w, rfl⟩
  | evtIrq r => cases h
  | evtDma w => cases h

/-- Everything a step can do when it answers a next state. -/
theorem step_cases {s t : State} (h : step s = .next t) :
    (s.pending = [] ∧ t = s) ∨
    (∃ a rest, s.pending = .arrive a :: rest ∧
      ((∃ i, decode a = .ok i ∧ exec i (s.accept rest a) = .next t) ∨
        ∃ e, decode a = .error e ∧ t = (s.accept rest a).illegalCommand)) ∨
    (∃ i v rest, s.pending = .operand i v :: rest ∧ t = { s with pending := rest }.writeOperand i v) ∨
    (∃ a v rest, (s.pending = .hostStore a v :: rest ∨ s.pending = .engineStore a v :: rest) ∧
      t = { s with pending := rest }.storeByte a v) ∨
    (∃ a rest, s.pending = .hostLoad a :: rest ∧ t = { s with pending := rest }) ∨
    (∃ r rest, s.pending = .rawFlags r :: rest ∧ t = { s with pending := rest }.driveRaw r) ∨
    (∃ rest, s.pending = .suspend :: rest ∧
      t = { s with pending := rest, ctl := Config.suspendCtl s.draws, draws := s.draws + 1 }) ∨
    (∃ rest, s.pending = .powerOn :: rest ∧ t = { s with pending := rest }.powerOnReset) := by
  unfold step at h
  split at h
  · rename_i hp
    cases h
    exact .inl ⟨hp, rfl⟩
  · rename_i a rest hp
    refine .inr (.inl ⟨a, rest, hp, ?_⟩)
    unfold runArrival at h
    split at h
    · exact .inl ⟨_, ‹_›, h⟩
    · cases h
      exact .inr ⟨_, ‹_›, rfl⟩
  · rename_i i v rest hp
    cases h
    exact .inr (.inr (.inl ⟨i, v, rest, hp, rfl⟩))
  · rename_i a v rest hp
    unfold hostStore at h
    split at h
    · cases h
    · cases h
      exact .inr (.inr (.inr (.inl ⟨a, v, rest, .inl hp, rfl⟩)))
  · rename_i a rest hp
    unfold hostLoad at h
    split at h
    · cases h
    · cases h
      exact .inr (.inr (.inr (.inr (.inl ⟨a, rest, hp, rfl⟩))))
  · rename_i a v rest hp
    unfold engineStore at h
    split at h
    · cases h
      exact .inr (.inr (.inr (.inl ⟨a, v, rest, .inr hp, rfl⟩)))
    · cases h
  · rename_i r rest hp
    cases h
    exact .inr (.inr (.inr (.inr (.inr (.inl ⟨r, rest, hp, rfl⟩)))))
  · rename_i rest hp
    unfold suspend at h
    split at h
    · cases h
    · cases h
      exact .inr (.inr (.inr (.inr (.inr (.inr (.inl ⟨rest, hp, rfl⟩))))))
  · rename_i rest hp
    cases h
    exact .inr (.inr (.inr (.inr (.inr (.inr (.inr ⟨rest, hp, rfl⟩))))))

end Sys2Proof.Machine
end

