-- ==== Sys2Proof/Laws/Invariant.lean ====
section
/-! SUPPORT. `CoreInvariant`, operation by operation. -/

namespace Sys2Proof.Machine

/-- `CoreInvariant` speaks of these fields only. -/
theorem CoreInvariant.of_eq {s t : State} (h : CoreInvariant s) (hm : t.mem.wf = true) (hp : t.params = s.params)
    (hv : t.cfgValid = s.cfgValid) (hc : t.cfg = s.cfg) (hd : t.clkDiv = s.clkDiv) (hw : t.wss = s.wss)
    (he : t.clkEn = s.clkEn) (ha : t.achievedBclk = s.achievedBclk) (hk : t.clkWarn = s.clkWarn)
    (hq : DmaQuiet t) (hr : InFlightRuns t) : CoreInvariant t := by
  refine ⟨hm, fun hv' => ?_, hq, hr⟩
  rw [hv] at hv'
  have := h.configCoherent hv'
  constructor
  · rw [hc]; exact this.depthLegal
  · rw [hc]; exact this.channelsLegal
  · rw [hd]; exact this.divisorLegal
  · rw [hd, hc, hp]; exact this.divisorIs
  · rw [hd, ha, hp]; exact this.achievedIs
  · rw [hk, hd, hp, hc]; exact this.warnIs
  · rw [hw, hc, hp]; exact this.wssIs
  · rw [he]; exact this.clockOn

/-- The same, with the two Channel conditions together. -/
theorem CoreInvariant.of_ch {s t : State} (h : CoreInvariant s) (hm : t.mem.wf = true) (hp : t.params = s.params)
    (hv : t.cfgValid = s.cfgValid) (hc : t.cfg = s.cfg) (hd : t.clkDiv = s.clkDiv) (hw : t.wss = s.wss)
    (he : t.clkEn = s.clkEn) (ha : t.achievedBclk = s.achievedBclk) (hk : t.clkWarn = s.clkWarn)
    (hch : ∀ d, ((t.ch.get d).buffer ≠ null → (t.ch.get d).running = true) ∧ (s.params.dma d = true →
      (t.ch.get d).samples = 0#32 ∧ (t.ch.get d).count = 0#32 ∧ (t.ch.get d).index = 0#32 ∧
          (t.ch.get d).overrun = false)) :
    CoreInvariant t := by
  refine CoreInvariant.of_eq h hm hp hv hc hd hw he ha hk ?_ ?_
  · intro d hd; rw [hp] at hd; exact (hch d).2 hd
  · intro d hb; exact (hch d).1 hb

/-- An event operation keeps the invariant when it keeps or clears the buffer pointer and leaves a DMA direction's pump fields. -/
theorem event_core {s t : State} (h : CoreInvariant s) (f : EventFrame s t) (hm : t.mem.wf = true)
    (hb : ∀ d, (t.ch.get d).buffer = (s.ch.get d).buffer ∨ (t.ch.get d).buffer = null)
    (hq : ∀ d, s.params.dma d = true → (t.ch.get d).samples = (s.ch.get d).samples ∧
        (t.ch.get d).count = (s.ch.get d).count ∧ (t.ch.get d).index = (s.ch.get d).index ∧
        (t.ch.get d).overrun = (s.ch.get d).overrun) : CoreInvariant t := by
  refine CoreInvariant.of_ch h hm f.params f.cfgValid f.cfg f.clkDiv f.wss f.clkEn f.achievedBclk f.clkWarn ?_
  intro d
  constructor
  · intro hb'
    rw [f.running]
    apply h.inFlightRuns
    rcases hb d with e | e
    · rwa [e] at hb'
    · exact absurd e hb'
  · intro hd
    obtain ⟨a, b, c, e⟩ := hq d hd
    rw [a, b, c, e]
    exact h.dmaQuiet d hd

/-- A pump invocation keeps or clears the buffer pointer. -/
theorem pump_buffer (s : State) (d : Dir) (ovr : Bool) : ((s.pump d ovr).ch.get d).buffer = (s.ch.get d).buffer ∨
    ((s.pump d ovr).ch.get d).buffer = null := by
  rcases pump_cases s d ovr with ⟨_, h⟩ | ⟨_, ⟨_, h⟩ | ⟨_, h⟩⟩ <;> rw [h]
  · left; rw [State.latchIf_ch]
  · left
    obtain ⟨c, i, e⟩ := pumpFrames_ch (s.latchIf d ovr) d (s.params.trig d)
    rw [e, State.latchIf_ch]
  · right; rw [(complete_spec _ d).1]

theorem route_core {s : State} (h : CoreInvariant s) (d : Dir) (b : StatusBits) : CoreInvariant (s.route d b) := by
  refine event_core h (route_frame s d b) (route_wf d b h.memoryCanonical) ?_ ?_
  · intro e
    by_cases hed : e = d
    · subst hed
      rcases route_cases s e b with ⟨_, hr⟩ | ⟨_, _, ⟨_, hr⟩ | ⟨_, hr⟩⟩ <;> rw [hr]
      · left; rfl
      · left; simp [State.dmaOverrun]
      · exact pump_buffer s e _
    · left; rw [(route_dirFrame s hed b).ch]
  · intro e hdma
    by_cases hed : e = d
    · subst hed
      rcases route_cases s e b with ⟨_, hr⟩ | ⟨_, _, ⟨_, hr⟩ | ⟨hd, hr⟩⟩ <;> rw [hr]
      · exact ⟨rfl, rfl, rfl, rfl⟩
      · simp [State.dmaOverrun]
      · rw [hd] at hdma; cases hdma
    · rw [(route_dirFrame s hed b).ch]; exact ⟨rfl, rfl, rfl, rfl⟩

theorem enterIrq_core {s : State} (h : CoreInvariant s) (r : BitVec 4) : CoreInvariant (s.enterIrq r) :=
  CoreInvariant.of_ch h h.memoryCanonical rfl rfl rfl rfl rfl rfl rfl rfl fun d => ⟨h.inFlightRuns d, h.dmaQuiet d⟩

theorem finish_core {s : State} (h : CoreInvariant s) (c : ResultCode) : CoreInvariant (s.finish c) :=
  CoreInvariant.of_ch h h.memoryCanonical rfl rfl rfl rfl rfl rfl rfl rfl fun d => ⟨h.inFlightRuns d, h.dmaQuiet d⟩

theorem arm_core {s : State} (h : CoreInvariant s) (d : Dir) : CoreInvariant (s.arm d) := by
  have key : ∀ (c : Channel) (t : State), t.mem = s.mem → t.params = s.params → t.cfgValid = s.cfgValid →
      t.cfg = s.cfg → t.clkDiv = s.clkDiv → t.wss = s.wss → t.clkEn = s.clkEn → t.achievedBclk = s.achievedBclk →
      t.clkWarn = s.clkWarn → t.ch = s.ch.set d c → (c.buffer ≠ null → c.running = true) → (s.params.dma d = true →
      c.samples = 0#32 ∧ c.count = 0#32 ∧ c.index = 0#32 ∧ c.overrun = false) → CoreInvariant t := by
    intro c t hm hp hv hc hd hw he ha hk hch h1 h2
    refine CoreInvariant.of_ch h (by rw [hm]; exact h.memoryCanonical) hp hv hc hd hw he ha hk ?_
    intro e
    rw [hch, PerDir.get_set]
    split
    · subst_vars; exact ⟨h1, h2⟩
    · exact ⟨h.inFlightRuns e, h.dmaQuiet e⟩
  rcases arm_cases s d with ⟨_, e⟩ | ⟨_, _, _, e⟩ | ⟨_, _, _, _, e⟩ | ⟨_, _, hb, _, ⟨hd, e⟩ | ⟨hd, ⟨_, e⟩ | ⟨_, _,
      e⟩ | ⟨_, _, e⟩⟩⟩
  · rw [e]; exact finish_core h _
  · rw [e]; exact finish_core h _
  · rw [e]; exact finish_core h _
  · rw [e, armPump_eq]
    exact key _ _ rfl rfl rfl rfl rfl rfl rfl rfl rfl rfl (fun _ => rfl) (fun hd' => by rw [hd] at hd'; cases hd')
  · have := h.dmaQuiet d hd
    rw [e]
    refine key { s.ch.get d with buffer := null, blockBytes := s.x1 } _ ?_ ?_ ?_ ?_ ?_ ?_ ?_ ?_ ?_ ?_
        (fun h => absurd rfl h) (fun _ => this) <;>
      simp [State.rollback, State.finishWith, dmaConfigured, dmaPrepared_eq]
  · have := h.dmaQuiet d hd
    rw [e]
    refine key { s.ch.get d with buffer := null, blockBytes := s.x1 } _ ?_ ?_ ?_ ?_ ?_ ?_ ?_ ?_ ?_ ?_
        (fun h => absurd rfl h) (fun _ => this) <;>
      simp [State.rollback, State.finishWith, dmaStarted, dmaConfigured, dmaPrepared_eq]
  · have := h.dmaQuiet d hd
    rw [e]
    refine key { s.ch.get d with buffer := s.x0, blockBytes := s.x1, running := true } _ ?_ ?_ ?_ ?_ ?_ ?_ ?_ ?_ ?_ ?_
        (fun _ => rfl) (fun _ => this) <;>
      cases hr : (s.ch.get d).running <;> simp [State.startDmaChannel, dmaStarted, dmaConfigured, dmaPrepared_eq, hr]


theorem configure_core {s : State} (h : CoreInvariant s) : CoreInvariant s.configure := by
  rcases configure_cases s with ⟨_, e⟩ | ⟨w, hw, hn, ⟨hc, e⟩ | ⟨c, hc, e⟩⟩
  · rw [e]; exact finish_core h _
  · rw [e]
    exact ⟨h.memoryCanonical, fun hv => (by cases hv), h.dmaQuiet, h.inFlightRuns⟩
  · rw [e, configureWith_eq]
    refine ⟨h.memoryCanonical, fun _ => ?_, h.dmaQuiet, h.inFlightRuns⟩
    obtain ⟨_, k1, k2, ⟨k5, k6⟩, k3, k4⟩ := clkDivOf_some hc
    have kd : (BitVec.ofNat 10 c.divisor).toNat = c.divisor := by
      rw [BitVec.toNat_ofNat]; exact Nat.mod_eq_of_lt (by omega)
    constructor
    · exact wssLookup_some hw
    · exact hn
    · rw [show _ = _ from kd]; exact ⟨k5, k6⟩
    · rw [show _ = _ from kd, k2, k1]; rfl
    · rw [show _ = _ from kd, ← k3]
    · rw [show _ = _ from kd, ← k3]
      rw [k1] at k4
      exact k4
    · exact hw
    · rfl

theorem disableOne_core {s : State} (h : CoreInvariant s) (d : Dir) : CoreInvariant (s.disableOne d) := by
  rw [disableOne_eq]
  refine CoreInvariant.of_ch h h.memoryCanonical rfl rfl rfl rfl rfl rfl rfl rfl ?_
  intro e
  rw [PerDir.get_set]
  split
  · exact ⟨fun hb => absurd rfl hb, fun _ => ⟨rfl, rfl, rfl, rfl⟩⟩
  · exact ⟨h.inFlightRuns e, h.dmaQuiet e⟩

theorem dmaDone_core {s : State} (h : CoreInvariant s) (d : Dir) (st : Word) : CoreInvariant (s.dmaDone d st) := by
  rcases dmaDone_cases s d st with ⟨_, e⟩ | ⟨_, _, e⟩ <;> rw [e]
  · exact h
  · obtain ⟨hch, hctl, hraw, hm, _⟩ := dmaComplete_spec s d st
    refine event_core h (dmaComplete_frame s d st) (by rw [hm]; exact h.memoryCanonical) ?_ ?_ <;> intro e <;>
      rw [hch, PerDir.get_set] <;> split
    · right; rfl
    · left; rfl
    · subst_vars; exact fun _ => ⟨rfl, rfl, rfl, rfl⟩
    · exact fun _ => ⟨rfl, rfl, rfl, rfl⟩

theorem exec_core {i : Instr} {s t : State} (h : CoreInvariant s) (he : exec i s = .next t) : CoreInvariant t := by
  have easy : ∀ t : State, t.mem = s.mem → t.params = s.params → t.cfgValid = s.cfgValid → t.cfg = s.cfg →
      t.clkDiv = s.clkDiv → t.wss = s.wss → t.clkEn = s.clkEn → t.achievedBclk = s.achievedBclk →
      t.clkWarn = s.clkWarn → t.ch = s.ch → CoreInvariant t := by
    intro t hm hp hv hc hd hw he ha hk hch
    refine CoreInvariant.of_ch h (by rw [hm]; exact h.memoryCanonical) hp hv hc hd hw he ha hk fun d => ?_
    rw [hch]; exact ⟨h.inFlightRuns d, h.dmaQuiet d⟩
  rcases exec_cases he with ⟨_, rfl⟩ | ⟨_, rfl⟩ | ⟨_, rfl⟩ | ⟨_, _, _, rfl⟩ | ⟨_, _, _, rfl⟩ | ⟨_, rfl⟩ | ⟨_, rfl⟩
      | ⟨_, rfl⟩ | ⟨_, rfl⟩ | ⟨r, _, rfl⟩ | ⟨d, st, _, rfl⟩
  · exact configure_core h
  · exact easy _ rfl rfl rfl rfl rfl rfl rfl rfl rfl rfl
  · exact easy _ rfl rfl rfl rfl rfl rfl rfl rfl rfl rfl
  · exact arm_core h _
  · exact arm_core h _
  · exact finish_core (disableOne_core h _) _
  · exact finish_core (disableOne_core h _) _
  · exact finish_core (disableOne_core (disableOne_core h _) _) _
  · exact easy _ rfl rfl rfl rfl rfl rfl rfl rfl rfl rfl
  · exact route_core (route_core (enterIrq_core h r) _ _) _ _
  · exact dmaDone_core h _ _

end Sys2Proof.Machine
end

