-- ==== Sys2Proof/Laws/Coherence.lean ====
section
/-! SUPPORT. `TransfersCoherent`, operation by operation, and what an activation knows of a transfer in flight. -/

namespace Sys2Proof.Machine

/-- What is known of a pump-mode transfer in flight. -/
theorem inflight_facts {s : State} (h : CoreInvariant s) (ht : TransfersCoherent s) {d : Dir}
    (hd : s.params.dma d = false)
   (hb : (s.ch.get d).buffer ≠ null) : TransferCoherent s d ∧ LegalFormat s ∧ (s.ch.get d).running = true :=
  ⟨(ht d hd hb).2, (h.configCoherent (ht d hd hb).1).format, h.inFlightRuns d hb⟩

/-- Transfers stay coherent when each direction's record is released, kept, or shown coherent. -/
theorem TransfersCoherent.of_ch {s t : State} (ht : TransfersCoherent s) (hp : t.params = s.params)
    (hc : t.cfg = s.cfg) (hv : t.cfgValid = s.cfgValid)
  (h : ∀ d, s.params.dma d = false → (t.ch.get d).buffer = null ∨ t.ch.get d = s.ch.get d ∨ (t.cfgValid = true ∧
      TransferCoherent t d)) : TransfersCoherent t := by
  intro d hd hb
  rw [hp] at hd
  rcases h d hd with e | e | e
  · exact absurd e hb
  · rw [e] at hb
    have := ht d hd hb
    exact ⟨by rw [hv]; exact this.1, this.2.of_eq hp hc (by rw [e]) (by rw [e]) (by rw [e]) (by rw [e])⟩
  · exact e

theorem route_transfers {s : State} (h : CoreInvariant s) (ht : TransfersCoherent s) (d : Dir) (b : StatusBits) :
    TransfersCoherent (s.route d b) := by
  have fr := route_frame s d b
  apply TransfersCoherent.of_ch ht fr.params fr.cfg fr.cfgValid
  intro e hd
  by_cases hed : e = d
  · subst hed
    rcases route_cases s e b with ⟨_, hr⟩ | ⟨_, _, ⟨_, hr⟩ | ⟨_, hr⟩⟩ <;> rw [hr]
    · right; left; rfl
    · right; left; simp [State.dmaOverrun]
    · by_cases hb : (s.ch.get e).buffer = null
      · left
        rcases pump_cases s e b.ovr with ⟨_, he⟩ | ⟨hn, _⟩
        · rw [he, State.latchIf_ch]; exact hb
        · exact absurd hb hn
      · obtain ⟨hc, hf, _⟩ := inflight_facts h ht hd hb
        cases hn : s.completesNow e
        · right; right
          refine ⟨?_, (pump_coherent b.ovr hb hc hf hn).1⟩
          rw [(pump_frame s e _).cfgValid]; exact (ht e hd hb).1
        · left
          rw [pump_ch b.ovr hb hc hf, hn]; rfl
  · right; left
    exact (route_dirFrame s hed b).ch

theorem arm_transfers {s : State} (h : CoreInvariant s) (ht : TransfersCoherent s) (hv : s.cfgValid = true)
    (d : Dir) : TransfersCoherent (s.arm d) := by
  have same : ∀ c, TransfersCoherent (s.finish c) := fun c =>
      TransfersCoherent.of_ch ht rfl rfl rfl fun d _ => .inr (.inl rfl)
  rcases arm_outcomes s d with ⟨_, e⟩ | ⟨_, _, _, e⟩ | ⟨_, _, _, _, e⟩ | ⟨_, _, hb, hl, ⟨hd, e⟩ | ⟨hd, ⟨_, e⟩ | ⟨_,
      _, e⟩ | ⟨_, _, e⟩⟩⟩
  · rw [e]; exact same _
  · rw [e]; exact same _
  · rw [e]; exact same _
  · rw [e, armPump_eq]
    refine TransfersCoherent.of_ch ht rfl rfl rfl ?_
    intro e hde
    by_cases hed : e = d
    · subst hed
      right; right
      refine ⟨hv, ?_⟩
      have hf := (h.configCoherent hv).format
      have hbps := hf.bps
      have hx := s.x1.isLt
      have hs : (BitVec.ofNat 32 (s.x1.toNat / s.bps)).toNat = s.x1.toNat / s.bps := by
        rw [BitVec.toNat_ofNat]
        apply Nat.mod_eq_of_lt
        exact Nat.lt_of_le_of_lt (Nat.div_le_self _ _) hx
      have hdvd : s.bps ∣ s.x1.toNat := Nat.dvd_of_mod_eq_zero (by
        have := Nat.dvd_of_mod_eq_zero hl
        exact Nat.mod_eq_zero_of_dvd (Nat.dvd_trans (Nat.dvd_mul_left _ _) this))
      constructor
      · simp only [PerDir.get_set_same, hs]
        exact Nat.div_mul_cancel hdvd
      · simp
      · simp only [PerDir.get_set_same, hs]
        apply Nat.mod_eq_zero_of_dvd
        have := Nat.dvd_of_mod_eq_zero hl
        obtain ⟨k, hk⟩ := this
        unfold State.frameBytes at hk
        refine ⟨k, ?_⟩
        show s.x1.toNat / s.bps = s.nch * k
        rw [hk, show s.nch * s.bps * k = s.nch * k * s.bps by ring, Nat.mul_div_cancel _ (by omega)]
      · simp
      · simp only [PerDir.get_set_same]
        show cursorFollows s.frameLayout _ _
        cases s.frameLayout <;> simp [cursorFollows]
    · right; left
      exact PerDir.get_set_other _ _ _ _ hed
  all_goals
    rw [e]
    first | rw [rollbackConfigured_eq] | rw [rollbackStarted_eq] | rw [startedOk_eq]
    refine TransfersCoherent.of_ch ht rfl rfl rfl ?_
    intro e' hde
    have hne : e' ≠ d := by rintro rfl; rw [hd] at hde; cases hde
    exact .inr (.inl (PerDir.get_set_other _ _ _ _ hne))

theorem disableOne_transfers {s : State} (ht : TransfersCoherent s) (d : Dir) : TransfersCoherent (s.disableOne d) := by
  rw [disableOne_eq]
  refine TransfersCoherent.of_ch ht rfl rfl rfl ?_
  intro e _
  by_cases hed : e = d
  · subst hed; left; simp [disabledChannel]
  · right; left; exact PerDir.get_set_other _ _ _ _ hed

theorem dmaDone_transfers {s : State} (ht : TransfersCoherent s) (d : Dir) (st : Word) :
    TransfersCoherent (s.dmaDone d st) := by
  have fr := dmaDone_frame s d st
  refine TransfersCoherent.of_ch ht fr.params fr.cfg fr.cfgValid ?_
  intro e _
  rcases dmaDone_cases s d st with ⟨_, h⟩ | ⟨_, _, h⟩ <;> rw [h]
  · right; left; rfl
  · rw [(dmaComplete_spec s d st).1, PerDir.get_set]
    split
    · left; rfl
    · right; left; rfl

/-! ### The dispatcher on a pump-mode transfer in flight -/

/-- A direction in pump mode whose bits are on is pumped (45_dispatch.md R152). -/
theorem route_pump {s : State} {d : Dir} {b : StatusBits} (hr : (s.ch.get d).running = true)
    (hd : s.params.dma d = false) (hb : b.rdy = true ∨ b.ovr = true) : s.route d b = s.pump d b.ovr := by
  unfold State.route
  rw [hr, hd]
  rcases hb with h | h <;> simp [h]

theorem enterIrq_coherent {s : State} {d : Dir} (h : TransferCoherent s d) (r : BitVec 4) :
    TransferCoherent (s.enterIrq r) d := ⟨h.1, h.2, h.3, h.4, h.5⟩

theorem enterIrq_format {s : State} (h : LegalFormat s) (r : BitVec 4) : LegalFormat (s.enterIrq r) := ⟨h.1, h.2⟩

theorem enterIrq_transfers {s : State} (h : TransfersCoherent s) (r : BitVec 4) : TransfersCoherent (s.enterIrq r) :=
  h.of_ch rfl rfl rfl fun _ _ => .inr (.inl rfl)

/-- The state the receive part of an activation starts from: everything the receive direction reads is as at entry. -/
theorem dispatch_midway (s : State) (r : BitVec 4) (b : StatusBits) :
    EventFrame s ((s.enterIrq r).route .tx b) ∧ DirFrame .rx (s.enterIrq r) ((s.enterIrq r).route .tx b) ∧
    ((s.enterIrq r).route .tx b).mem = s.mem ∧ ((s.enterIrq r).route .tx b).rxEntries = s.rxEntries ∧
    ((s.enterIrq r).route .tx b).draws = s.draws :=
  ⟨(enterIrq_frame s r).trans (route_frame _ .tx b), route_dirFrame _ (by decide) _, route_tx_mem _ _,
    (route_tx_env _ _).1, (route_tx_env _ _).2⟩

/-- A byte of a sample of the transfer is borrowed (20_memory.md R58). -/
theorem borrowed_sample {s : State} {d : Dir} (hb : (s.ch.get d).buffer ≠ null) (hc : TransferCoherent s d)
    {i b : Nat} (hi : i < (s.ch.get d).samples.toNat) (hb' : b < s.bps) {a : Word}
    (ha : a.toNat = (s.sampleAddr d i + b) % addrSpace) : s.borrowed d a = true := by
  have hin := sampleByte_inBuffer hc hi hb'
  simp only [State.borrowed, State.inFlight, State.inBuffer, hb, ne_eq, not_false_eq_true, decide_true,
    Bool.true_and, decide_eq_true_eq]
  have h1 := (s.ch.get d).blockBytes.isLt
  have h2 := (s.ch.get d).buffer.isLt
  rw [sampleByte] at ha
  rw [BitVec.toNat_sub, ha]
  simp only [Nat.add_assoc]
  generalize i * s.bps + b = z at *
  simp only [addrSpace] at *
  omega

end Sys2Proof.Machine
end

