-- ==== Sys2Proof/Laws/Callback.lean ====
section
/-! SUPPORT. Which callbacks an event operation emits (44_pump.md R137, 43_dma.md R123). -/

namespace Sys2Proof.Machine

/-- The events appended from `s` to `t` all satisfy `P`. -/
def Adds (P : Event → Prop) (s t : State) : Prop := ∃ new, t.trace = s.trace ++ new ∧ ∀ e, e ∈ new → P e

theorem Adds.trans {P} {s t u : State} (h : Adds P s t) (k : Adds P t u) : Adds P s u := by
  obtain ⟨a, ha, ha'⟩ := h
  obtain ⟨b, hb, hb'⟩ := k
  refine ⟨a ++ b, by rw [hb, ha, List.append_assoc], fun e he => ?_⟩
  rcases List.mem_append.mp he with he | he
  · exact ha' e he
  · exact hb' e he

theorem Adds.refl (P) (s : State) : Adds P s s := ⟨[], by simp, by simp⟩

/-- The event is no callback. -/
def NoCb (e : Event) : Prop := ∀ d, e.isCbOf d = false

theorem frame_nocb (s : State) (d : Dir) : Adds NoCb s (s.frame d) := by
  cases d
  · unfold Adds
    simp only [State.frame, State.frameTx]
    split <;> simp [State.frameTxMono, State.frameTxInterleaved, State.frameTxSplit, NoCb, Event.isCbOf]
  · refine ⟨_, frame_rx_trace s, ?_⟩
    simp [State.rxFrameEvent, NoCb, Event.isCbOf]

theorem latch_nocb (s : State) (d : Dir) (ovr : Bool) : Adds NoCb s (s.latchIf d ovr) := by
  refine ⟨_, latchIf_trace s d ovr, ?_⟩
  cases ovr <;> simp [NoCb, Event.isCbOf]

theorem frames_nocb (s : State) (d : Dir) (ovr) (k : Nat) : Adds NoCb s ((s.latchIf d ovr).pumpFrames d k) :=
  (latch_nocb s d ovr).trans (pumpFrames_induction (P := Adds NoCb (s.latchIf d ovr)) d (fun t h _ => h.trans
      (frame_nocb t d)) k _ (Adds.refl _ _))

/-- The events appended from `s` to `t` hold one callback of `d`, with the armed buffer and the handle stored, exactly when the transfer of `d` ended between them. -/
def CbRule (s t : State) (d : Dir) : Prop :=
  ∃ new, t.trace = s.trace ++ new ∧ ∃ st, new.filter (Event.isCbOf d) =
    if (s.ch.get d).buffer ≠ null ∧ (t.ch.get d).buffer = null then [.cb d st (s.ch.get d).buffer (s.cb.get d)] else []

theorem cbRule_of_nocb {s t : State} (d) (h : Adds NoCb s t) (hb : (t.ch.get d).buffer = (s.ch.get d).buffer) :
    CbRule s t d := by
  obtain ⟨new, h1, h2⟩ := h
  refine ⟨new, h1, .ok, ?_⟩
  rw [hb, if_neg (fun h => h.1 h.2), List.filter_eq_nil_iff]
  intro e he; simp [h2 e he d]

theorem pump_cb (s : State) (d : Dir) (ovr : Bool) : CbRule s (s.pump d ovr) d := by
  rcases pump_cases s d ovr with ⟨_, h⟩ | ⟨hb, ⟨_, h⟩ | ⟨_, h⟩⟩ <;> rw [h]
  · exact cbRule_of_nocb d (latch_nocb s d ovr) (by rw [State.latchIf_ch])
  · refine cbRule_of_nocb d (frames_nocb s d ovr _) ?_
    obtain ⟨c, i, e⟩ := pumpFrames_ch (s.latchIf d ovr) d (s.params.trig d)
    rw [e, State.latchIf_ch]
  · obtain ⟨new, h1, h2⟩ := frames_nocb s d ovr (s.params.trig d)
    refine ⟨new ++ _, by rw [(complete_spec _ d).2.2.2.2, h1, List.append_assoc], ?_⟩
    have hcb : ∀ x, ((s.latchIf d ovr).pumpFrames d x).cb = s.cb := fun x => by
      rw [(pumpFrames_frame _ _ _).cb, (latchIf_frame s d ovr).cb]
    obtain ⟨c, i, e⟩ := pumpFrames_ch (s.latchIf d ovr) d (s.params.trig d)
    rw [(complete_spec _ d).1, e, State.latchIf_ch, hcb]
    refine ⟨completionStatus ((s.ch.get d).overrun || ovr), ?_⟩
    rw [if_pos ⟨hb, rfl⟩, List.filter_append, List.filter_eq_nil_iff.mpr (fun e he => by simp [h2 e he d])]
    simp [Event.isCbOf]

theorem route_cb (s : State) (d : Dir) (b) : CbRule s (s.route d b) d := by
  rcases route_cases s d b with ⟨_, h⟩ | ⟨_, _, ⟨_, h⟩ | ⟨_, h⟩⟩ <;> rw [h]
  · exact cbRule_of_nocb d (Adds.refl _ _) rfl
  · refine cbRule_of_nocb d ⟨[.ovrClr d, .log (.errDmaOverrun d)], by simp [State.dmaOverrun],
        by simp [NoCb, Event.isCbOf]⟩ (by simp [State.dmaOverrun])
  · exact pump_cb s d _

theorem isCbOf_isOf {d : Dir} {e : Event} (h : e.isOf d = false) : e.isCbOf d = false := by
  cases e <;> simp_all [Event.isOf, Event.isCbOf]

theorem dispatch_cb (s : State) (r) (d : Dir) : CbRule s ((s.enterIrq r).dispatch (s.status r)) d := by
  unfold State.dispatch
  obtain ⟨fr, df, _⟩ := dispatch_midway s r (s.status r).tx
  obtain ⟨n1, a1, c1⟩ := route_appends (s.enterIrq r) .tx (s.status r).tx
  obtain ⟨n2, a2, c2⟩ := route_appends ((s.enterIrq r).route .tx (s.status r).tx) .rx (s.status r).rx
  cases d
  · obtain ⟨m1, b1, st, b2⟩ := route_cb (s.enterIrq r) .tx (s.status r).tx
    rw [a1] at b1
    obtain rfl := List.append_cancel_left b1
    refine ⟨n1 ++ n2, by rw [a2, a1, ← List.append_assoc]; rfl, st, ?_⟩
    have hd := (route_dirFrame ((s.enterIrq r).route .tx (s.status r).tx) (d := .rx) (e := .tx) (by decide)
        (s.status r).rx).ch
    rw [hd, List.filter_append, b2, List.filter_eq_nil_iff.mpr (fun e he => by simp [isCbOf_isOf (c2 e he .tx
        (by decide))]), List.append_nil]
    split <;> split <;> first | rfl | (exfalso; simp_all)
  · obtain ⟨m1, b1, st, b2⟩ := route_cb ((s.enterIrq r).route .tx (s.status r).tx) .rx (s.status r).rx
    rw [a2] at b1
    obtain rfl := List.append_cancel_left b1
    refine ⟨n1 ++ n2, by rw [a2, a1, ← List.append_assoc]; rfl, st, ?_⟩
    rw [df.ch, fr.cb] at b2
    rw [List.filter_append, b2, List.filter_eq_nil_iff.mpr (fun e he => by simp [isCbOf_isOf (c1 e he .rx
        (by decide))]), List.nil_append]
    split <;> split <;> first | rfl | (exfalso; simp_all)

theorem dmaDone_cb (s : State) (d e : Dir) (st) : CbRule s (s.dmaDone e st) d := by
  rcases dmaDone_cases s e st with ⟨_, h⟩ | ⟨_, hb, h⟩ <;> rw [h]
  · exact cbRule_of_nocb d (Adds.refl _ _) rfl
  · have hadd : (s.dmaComplete e st).trace = s.trace ++
        (((match e with
            | .tx => []
            | .rx => [.cacheInv s.ch.rx.buffer s.ch.rx.blockBytes]) ++
          (if st ≠ 0#32 then [.log (.errDmaStatus e st)] else [])) ++
        [.cb e (dmaCbStatus e st) (s.ch.get e).buffer (s.cb.get e)]) := by
      by_cases hz : st = 0#32 <;> cases e <;> simp [State.dmaComplete, State.invalidateRx, State.logDmaStatus, hz]
    refine ⟨_, hadd, dmaCbStatus e st, ?_⟩
    by_cases hde : d = e
    · subst hde
      rw [(dmaComplete_spec s d st).1, PerDir.get_set_same, if_pos (c := (s.ch.get d).buffer ≠ null ∧
          null = null) ⟨hb, rfl⟩, List.filter_append, ccm]
      cases d <;> by_cases hz : st = 0#32 <;> simp [Event.isCbOf, hz]
    · rw [(dmaComplete_spec s e st).1, PerDir.get_set_other _ _ _ _ hde, if_neg (c := (s.ch.get d).buffer ≠ null ∧
          (s.ch.get d).buffer = null) (fun h => h.1 h.2)]
      by_cases hz : st = 0#32 <;> cases d <;> cases e <;> first | exact absurd rfl hde | simp [Event.isCbOf, hz]
where ccm {d : Dir} {st : CbStatus} {b h : Word} :
    ([Event.cb d st b h]).filter (Event.isCbOf d) = [Event.cb d st b h] := by simp [Event.isCbOf]

end Sys2Proof.Machine
end

