-- ==== Sys2Proof/Laws/Decode.lean ====
section
/-! SUPPORT. The fields of a command word as numbers, and everything the decoder can answer, said once. -/

namespace Sys2Proof

theorem opField_toNat (w : BitVec 32) : (opField w).toNat = w.toNat % 16 := by
  simp [opField, BitVec.extractLsb'_toNat]

theorem dirField_toNat (w : BitVec 32) : (dirField w).toNat = w.toNat / 16 % 4 := by
  simp [dirField, BitVec.extractLsb'_toNat, Nat.shiftRight_eq_div_pow]

theorem rsvField_toNat (w : BitVec 32) : (rsvField w).toNat = w.toNat / 64 := by
  have := w.isLt
  simp only [rsvField, BitVec.extractLsb'_toNat, Nat.shiftRight_eq_div_pow]
  omega

theorem opField_eq_iff (w : BitVec 32) (k : BitVec 4) : opField w = k ↔ w.toNat % 16 = k.toNat := by
  rw [← opField_toNat, BitVec.toNat_inj]

theorem dirField_eq_iff (w : BitVec 32) (k : BitVec 2) : dirField w = k ↔ w.toNat / 16 % 4 = k.toNat := by
  rw [← dirField_toNat, BitVec.toNat_inj]

theorem rsvField_eq_iff (w : BitVec 32) (k : BitVec 26) : rsvField w = k ↔ w.toNat / 64 = k.toNat := by
  rw [← rsvField_toNat, BitVec.toNat_inj]


/-- A command word decodes to an instruction only if it is the instruction's word (30_encoding.md R74: "These nine words are the only ones that select an operation"). -/
theorem decodeCmd_ok {w : BitVec 32} {i : Instr} (h : decodeCmd w = .ok i) : encode i = .cmd w := by
  simp only [decodeCmd, withoutDir, decodeRegisterCallback, decodeDisable, opField_eq_iff, dirField_eq_iff,
    rsvField_eq_iff, ne_eq, BitVec.toNat_ofNat] at h
  norm_num at h
  split_ifs at h <;> first
    | (cases h; done)
    | (cases h; simp only [encode, Arrival.cmd.injEq]; apply BitVec.eq_of_toNat_eq; simp; omega)

/-- A rejected command word, by its fields as numbers (30_encoding.md R80). -/
theorem decodeCmd_error {w : BitVec 32} {e : Reject} (h : decodeCmd w = .error e) :
    w.toNat / 64 ≠ 0 ∨ w.toNat % 16 = 0 ∨ 7 ≤ w.toNat % 16 ∨
      ((w.toNat % 16 = 1 ∨ w.toNat % 16 = 3 ∨ w.toNat % 16 = 4 ∨ w.toNat % 16 = 6) ∧ w.toNat / 16 % 4 ≠ 0) ∨
      (w.toNat % 16 = 2 ∧ (w.toNat / 16 % 4 = 0 ∨ w.toNat / 16 % 4 = 3)) ∨
      (w.toNat % 16 = 5 ∧ w.toNat / 16 % 4 = 0) := by
  simp only [decodeCmd, withoutDir, decodeRegisterCallback, decodeDisable, opField_eq_iff, dirField_eq_iff,
    rsvField_eq_iff, ne_eq, BitVec.toNat_ofNat] at h
  norm_num at h
  split_ifs at h <;> first
    | (cases h; done)
    | omega

/-- The two fields of an `EVT_DMA` word make up the word (30_encoding.md R75). -/
theorem dmaFields_append (w : BitVec 33) : (dmaDirField w).bit ++ dmaStatusField w = w := by
  apply BitVec.eq_of_getLsbD_eq
  intro k hk
  have h : (((dmaDirField w).bit ++ dmaStatusField w : BitVec (1 + 32))).getLsbD k = w.getLsbD k := by
    rw [BitVec.getLsbD_append]
    by_cases hk' : k < 32
    · simp [hk', dmaStatusField]
    · obtain rfl : k = 32 := by omega
      unfold dmaDirField
      cases hw : w.getLsbD 32 <;> simp [Dir.bit]
  exact h

end Sys2Proof
end

