-- ==== Sys2Proof/Laws/PerInstr.lean ====
section
/-! SUPPORT. Statements about every instruction as syntax, one lemma per constructor: decoding its word gives it back. -/

namespace Sys2Proof.Laws.RoundTrip

/-- The instruction is well formed and its word decodes to it (30_encoding.md R74, R75). -/
def Statement (i : Instr) : Prop := i.wf = true ∧ decode (encode i) = .ok i

theorem configure : Statement .configure := ⟨rfl, rfl⟩
theorem registerCallbackTx : Statement .registerCallbackTx := ⟨rfl, rfl⟩
theorem registerCallbackRx : Statement .registerCallbackRx := ⟨rfl, rfl⟩
theorem send : Statement .send := ⟨rfl, rfl⟩
theorem receive : Statement .receive := ⟨rfl, rfl⟩
theorem disableTx : Statement .disableTx := ⟨rfl, rfl⟩
theorem disableRx : Statement .disableRx := ⟨rfl, rfl⟩
theorem disableBoth : Statement .disableBoth := ⟨rfl, rfl⟩
theorem getConfig : Statement .getConfig := ⟨rfl, rfl⟩
theorem irq (r : BitVec 4) : Statement (.irq r) := ⟨rfl, rfl⟩

/-- Bit 32 of an `EVT_DMA` word is `dir`. -/
theorem dmaDirField_append (d : Dir) (st : Word) : dmaDirField (d.bit ++ st) = d := by
  have h : ((d.bit ++ st : BitVec (1 + 32)).getLsbD 32) = d.bit.getLsbD 0 := by
    rw [BitVec.getLsbD_append]; simp
  unfold dmaDirField
  rw [show (BitVec.getLsbD (w := 33) (d.bit ++ st) 32) = d.bit.getLsbD 0 from h]
  cases d <;> rfl

/-- Bits 31:0 of an `EVT_DMA` word are `st`. -/
theorem dmaStatusField_append (d : Dir) (st : Word) : dmaStatusField (d.bit ++ st) = st := by
  apply BitVec.eq_of_getLsbD_eq
  intro k hk
  have h : ((d.bit ++ st : BitVec (1 + 32)).getLsbD k) = st.getLsbD k := by
    rw [BitVec.getLsbD_append]; simp [hk]
  unfold dmaStatusField
  rw [BitVec.getLsbD_extractLsb', Nat.zero_add]
  simpa [hk] using h

theorem dmaDone (d : Dir) (st : Word) : Statement (.dmaDone d st) := by
  refine ⟨rfl, ?_⟩
  change Except.ok (Instr.dmaDone (dmaDirField (d.bit ++ st)) (dmaStatusField (d.bit ++ st))) = _
  rw [dmaDirField_append, dmaStatusField_append]

end Sys2Proof.Laws.RoundTrip
end

