-- ==== Sys2Proof/Tests/Slice0.lean ====
section
/-! SUPPORT. The model's own tests. Expected values are those of spec/95_test_vectors.md (named V, D-, CF, A, F, PU, S, M, X, Q, P there) or are written out by hand from a rule. Then one witness for every statement that has hypotheses. -/

namespace Sys2Proof.Tests

open Sys2Proof Sys2Proof.Machine

/-! ### Small states -/

/-- A parameter record like those of 95_test_vectors.md section 0: the symbolic parameters get numbers. -/
def spec (hz : Nat) (dma : Bool) (l : Layout) (trig : Nat) : ParamSpec where
  clockSourceHz := hz
  wss16 := 16
  wss24 := 24
  wss32 := 32
  dmaTx := dma
  dmaRx := dma
  layout := l
  trigTx := trig
  trigRx := trig
  periphTxAddr := 0x40014000#32
  periphRxAddr := 0x40014004#32
  statusMasked := true
  byteOrder := .little

/-- `K1`: pump mode, interleaved, trigger level 2. -/
def k1 : Params := ⟨spec 76800000 false .interleaved 2, by decide⟩

/-- `K1a`: `K1` with trigger level 1. -/
def k1a : Params := ⟨spec 76800000 false .interleaved 1, by decide⟩

/-- `K2`: pump mode, split, trigger level 1. -/
def k2 : Params := ⟨spec 76800000 false .split 1, by decide⟩

/-- `K3`: both directions in DMA mode. -/
def k3 : Params := ⟨spec 76800000 true .interleaved 2, by decide⟩

/-- A Channel record, its fields in the order of 95_test_vectors.md section 0. -/
def chan (buffer blockBytes samples count index : Word) (running overrun : Bool) : Channel :=
  { buffer := buffer, blockBytes := blockBytes, samples := samples, count := count, index := index
    running := running, overrun := overrun }

/-- `EN[d]`, with word length 16. -/
def en (chanEn blkEn fifoIe ovrIe : Bool) : PortCtl :=
  { chanEn := chanEn, blkEn := blkEn, fifoIe := fifoIe, ovrIe := ovrIe, wlen := 16#6 }

/-- No raw flag of a direction is up. -/
def low : StatusBits := { rdy := false, ovr := false }

/-- A state after `configure 48000, 16, 2` on 76.8 MHz with both callbacks registered and both directions idle. -/
def ready (p : Params) : State where
  params := p
  x0 := 0#32
  x1 := 0#32
  x2 := 0#32
  x3 := 0#32
  x4 := 0#32
  x5 := 0#32
  cmd := 0#32
  res := 0#32
  cfg := { sampleRate := 48000#32, bitDepth := 16#32, channelCount := 2#32 }
  cfgValid := true
  clkDiv := 50#10
  wss := 16
  clkEn := true
  achievedBclk := 1536000#32
  clkWarn := false
  ch := { tx := Channel.reset, rx := Channel.reset }
  cb := { tx := 0x08001235#32, rx := 0x08002469#32 }
  ctl := { tx := en false false false false, rx := en false false false false }
  raw := { tx := low, rx := low }
  mem := []
  trace := []
  pending := []
  dmaAnswers := []
  rxEntries := []
  draws := 0

/-- The operands `x[0..2]`. -/
def withArgs (s : State) (a b c : Word) : State := { s with x0 := a, x1 := b, x2 := c }

/-- The next state, if there is one. -/
def nextOf : Host.Outcome State Fault Refusal → Option State
  | .next t => some t
  | .fault _ => none
  | .refused _ => none

/-! ### WellFormed: each check refuses an ill-formed record (00_scope.md R9, R10, R203 item 1) -/

theorem test_wf_accepts : (spec 76800000 true .interleaved 1).wf = true := by decide

theorem test_wf_clock : (spec 0 false .interleaved 1).wf = false := by decide

theorem test_wf_trig_tx : ({ spec 1 false .interleaved 1 with trigTx := 0 } : ParamSpec).wf = false := by decide

theorem test_wf_trig_rx : ({ spec 1 false .interleaved 1 with trigRx := 0 } : ParamSpec).wf = false := by decide

theorem test_wf_split_dma :
    ({ spec 1 false .split 1 with dmaRx := true } : ParamSpec).wf = false ∧
    ({ spec 1 false .split 1 with dmaTx := true } : ParamSpec).wf = false := by decide

/-- Both ends of the bounds of 00_scope.md R11. -/
theorem test_clock_fits_example :
    (spec 3072000 false .interleaved 1).clockFitsExample = true ∧ (spec 3071999 false .interleaved 1).clockFitsExample = false ∧
    (spec 1572863999 false .interleaved 1).clockFitsExample = true ∧
    (spec 1572864000 false .interleaved 1).clockFitsExample = false := by decide

theorem test_wf_instr : (Instr.irq 0b1111#4).wf = true ∧ (Instr.dmaDone .rx 0xFFFFFFFF#32).wf = true := by decide

/-! ### Decode: words written out from 30_encoding.md R71, R74, R75, R80 (vectors D-1 to D-15) -/

theorem test_decode_configure :
    decodeTableWord 32 0b00000000000000000000000000_00_0001 = some .configure := by decide

theorem test_decode_register_callback_tx :
    decodeTableWord 32 0b00000000000000000000000000_01_0010 = some .registerCallbackTx := by decide

theorem test_decode_register_callback_rx :
    decodeTableWord 32 0b00000000000000000000000000_10_0010 = some .registerCallbackRx := by decide

theorem test_decode_send : decodeTableWord 32 0b00000000000000000000000000_00_0011 = some .send := by decide

theorem test_decode_receive :
    decodeTableWord 32 0b00000000000000000000000000_00_0100 = some .receive := by decide

theorem test_decode_disable_tx :
    decodeTableWord 32 0b00000000000000000000000000_01_0101 = some .disableTx := by decide

theorem test_decode_disable_rx :
    decodeTableWord 32 0b00000000000000000000000000_10_0101 = some .disableRx := by decide

theorem test_decode_disable_both :
    decodeTableWord 32 0b00000000000000000000000000_11_0101 = some .disableBoth := by decide

theorem test_decode_get_config :
    decodeTableWord 32 0b00000000000000000000000000_00_0110 = some .getConfig := by decide

/-- `irq rxrdy` is `0b0100`: bit 2 alone. -/
theorem test_decode_irq :
    decodeTableWord 8 0b0100 = some (.irq 0b0100#4) ∧
    rawOfWord 0b0100#4 = { tx := low, rx := { rdy := true, ovr := false } } := by decide

/-- `dir` stands above the 32 bits of `st`. -/
theorem test_decode_dma_done :
    decodeTableWord 40 0b1_00000000000000000000000000000111 = some (.dmaDone .rx 7#32) ∧
    decodeTableWord 40 0b0_11111111111111111111111111111111 = some (.dmaDone .tx 0xFFFFFFFF#32) := by decide

/-- D-10 to D-15. -/
theorem test_decode_illegal :
    ([0x00000000, 0x00000007, 0x00000008, 0x0000000F, 0x00000011, 0x00000023, 0x00000034, 0x00000016, 0x00000002,
      0x00000032, 0x00000005, 0x00000041, 0x80000003, 0x00000115].map (decodeTableWord 32)).all (· == none) = true := by
  decide

/-- The first operation after reset is the one placed by `withFetchWord`. -/
theorem test_fetch : (State.reset.withFetchWord 32 0x00000006).pending = [.arrive (.cmd 0x00000006#32)] := by decide

/-! ### CONFIGURE -/

/-- CF6. -/
theorem test_configure_inexact :
    (nextOf (exec .configure (withArgs (ready k1) 44100#32 24#32 2#32))).map
      (fun t => (t.clkDiv, t.wss, t.achievedBclk.toNat, t.ctl.tx.wlen, t.trace)) =
    some (36#10, 24, 2133333, 24#6,
      [.fifoClr .tx, .fifoClr .rx, .log (.warnClkInexact 2116800 2133333), .result .ok]) := by decide

/-- V12: the bit clock is exact, so a rate whose 32-bit product would wrap fails. -/
theorem test_configure_no_wrap :
    (nextOf (exec .configure (withArgs (ready k1) 67110864#32 32#32 2#32))).map
      (fun t => (t.res, t.cfgValid, t.clkDiv, t.trace)) =
    some (1#32, false, 50#10, [.result .invalidConfig]) := by decide

/-! ### REGISTER_CALLBACK, GET_CONFIG -/

/-- Q5: a second registration replaces the first. -/
theorem test_register_callback_tx :
    (nextOf (exec .registerCallbackTx (withArgs (ready k1) 0x08009999#32 0#32 0#32))).map (fun t => (t.res, t.cb)) =
    some (0#32, { tx := 0x08009999#32, rx := 0x08002469#32 }) := by decide

/-- Q7 for the other direction: handle 0 un-registers. -/
theorem test_register_callback_rx :
    (nextOf (exec .registerCallbackRx (ready k1))).map (fun t => (t.res, t.cb)) =
    some (0#32, { tx := 0x08001235#32, rx := 0#32 }) := by decide

/-- Q1. -/
theorem test_get_config :
    (nextOf (exec .getConfig (ready k1))).map (fun t => (t.res, t.x3, t.x4, t.x5)) =
    some (0#32, 48000#32, 16#32, 2#32) := by decide

/-! ### SEND, RECEIVE -/

/-- `TX` primed, as in A10. -/
def primed (overrun : Bool) : State :=
  { ready k1 with
    ch := { tx := chan 0#32 8#32 0#32 4#32 0#32 true overrun, rx := Channel.reset }
    ctl := { tx := en true true false false, rx := en false false false false } }

/-- A10 and A11: a re-arm sets the two interrupt enables, resets the stale count and keeps the latch. -/
theorem test_send_rearm :
    (nextOf (exec .send (withArgs (primed true) 0x20000200#32 16#32 0#32))).map (fun t => (t.res, t.ch.tx, t.ctl.tx)) =
    some (0#32, chan 0x20000200#32 16#32 8#32 0#32 0#32 true true, en true true true true) := by decide

/-- `TX` in flight on 8 bytes at 0x20000000 (after A1), `count` samples moved. -/
def sending (p : Params) (count : Word) : State :=
  { ready p with
    ch := { tx := chan 0x20000000#32 8#32 4#32 count count true false, rx := Channel.reset }
    ctl := { tx := en true true true true, rx := en false false false false }
    mem := [(0x20000000, 0x01#8), (0x20000001, 0x00#8), (0x20000002, 0x02#8), (0x20000003, 0x00#8),
      (0x20000004, 0x03#8), (0x20000005, 0x00#8), (0x20000006, 0x04#8), (0x20000007, 0x00#8)] }

/-- A7 and A8: the order of the checks on a busy direction. -/
theorem test_send_busy :
    (nextOf (exec .send (withArgs (sending k1 0#32) 0x20000100#32 6#32 0#32))).map (·.res) = some 3#32 ∧
    (nextOf (exec .send (withArgs (sending k1 0#32) 0#32 8#32 0#32))).map (·.res) = some 2#32 := by decide

/-- A5: nine bytes are three 24-bit mono samples. -/
theorem test_receive_24_bit :
    (nextOf (exec .receive { withArgs (ready k1) 0x20001000#32 9#32 0#32 with
      cfg := { sampleRate := 48000#32, bitDepth := 24#32, channelCount := 1#32 } })).map
      (fun t => (t.res, t.ch.rx, t.ctl.rx)) =
    some (0#32, chan 0x20001000#32 9#32 3#32 0#32 0#32 true false, en true true true true) := by decide

/-- M2: a DMA receive emits no cache event and never enables the FIFO interrupt. -/
theorem test_receive_dma :
    (nextOf (exec .receive { withArgs (ready k3) 0x20004000#32 16#32 0#32 with dmaAnswers := [0#32, 0#32] })).map
      (fun t => (t.res, t.ch.rx, t.ctl.rx, t.trace.length)) =
    some (0#32, chan 0x20004000#32 16#32 0#32 0#32 0#32 true false, en true true false true, 3) := by decide

/-! ### DISABLE -/

/-- X1. -/
theorem test_disable_tx :
    (nextOf (exec .disableTx (sending k1 2#32))).map (fun t => (t.res, t.ch.tx, t.ctl.tx, t.trace)) =
    some (0#32, chan 0#32 8#32 0#32 0#32 0#32 false false, en false false false false,
      [.fifoClr .tx, .result .ok]) := by decide

/-- `TX` in DMA flight (after M1), the engine's next answers given. -/
def dmaSending (answers : List Word) : State :=
  { ready k3 with
    ch := { tx := chan 0x20003000#32 16#32 0#32 0#32 0#32 true false, rx := Channel.reset }
    ctl := { tx := en true true false true, rx := en false false false false }
    dmaAnswers := answers }

/-- X5: a stop error is logged, not failed. -/
theorem test_disable_tx_stop_error :
    (nextOf (exec .disableTx (dmaSending [9#32]))).map (fun t => (t.res, t.trace)) =
    some (0#32, [.dmaStop .tx 9#32, .log (.errDmaStop .tx 9#32), .fifoClr .tx, .result .ok]) := by decide

/-- 46_disable.md R164 item 2, mirrored: `DISABLE RX` leaves the transmit side alone. -/
theorem test_disable_rx :
    (nextOf (exec .disableRx (sending k1 2#32))).map (fun t => (t.ch.tx, t.ctl.tx, t.trace)) =
    some (chan 0x20000000#32 8#32 4#32 2#32 2#32 true false, en true true true true,
      [.fifoClr .rx, .result .ok]) := by decide

/-- X4: transmit is reset before receive. -/
theorem test_disable_both :
    (nextOf (exec .disableBoth (dmaSending [0#32, 0#32]))).map (fun t => (t.ch.tx.buffer, t.ch.tx.running, t.trace)) =
    some (0#32, false, [.dmaStop .tx 0#32, .fifoClr .tx, .dmaStop .rx 0#32, .fifoClr .rx, .result .ok]) := by decide

/-! ### The pseudo-operations of 30_encoding.md R88 -/

/-- A `TransportError` after the last `get_config` overwrites `x[3]` and leaves what `resume` configures. -/
theorem test_resume_after_transport_error :
    (nextOf (exec .getConfig (ready k3))).bind (fun t =>
      (nextOf (exec .send { withArgs t 0x20003000#32 16#32 0#32 with dmaAnswers := [22#32] })).map fun u =>
        (u.x3, pseudoResume [(.send, u), (.getConfig, t)])) =
    some (22#32, some (textConfigure 48000#32 16#32 2#32)) := by decide

theorem test_resume_without_get_config : pseudoResume [(.configure, ready k1)] = none := by decide

theorem test_cancel :
    pseudoCancel .tx = [.arrive (.cmd 0x15#32)] ∧ pseudoCancel .rx = [.arrive (.cmd 0x25#32)] ∧
    pseudoCancel .both = [.arrive (.cmd 0x35#32)] := by decide

/-! ### IRQ -/

/-- `RX` in flight in split layout, one of two frames moved (P3 after step 4), the next entry given. -/
def splitReceiving : State :=
  { ready k2 with
    ch := { tx := Channel.reset, rx := chan 0x20002000#32 8#32 4#32 2#32 1#32 true false }
    ctl := { tx := en false false false false, rx := en true true true true }
    mem := [(0x20002000, 0xA1#8), (0x20002001, 0x00#8), (0x20002002, 0xFF#8), (0x20002003, 0xFF#8),
      (0x20002004, 0xB1#8), (0x20002005, 0x00#8), (0x20002006, 0xFF#8), (0x20002007, 0xFF#8)]
    rxEntries := [(0x00A2, 0x00B2)] }

/-- P3 step 5: the right value goes to the second half of the buffer, and the transfer completes. -/
theorem test_irq_receive_split :
    (nextOf (exec (.irq 0b0100#4) splitReceiving)).map (fun t => (t.mem, t.ch.rx, t.ctl.rx, t.trace)) =
    some ([(0x20002000, 0xA1#8), (0x20002001, 0x00#8), (0x20002002, 0xA2#8), (0x20002003, 0x00#8),
        (0x20002004, 0xB1#8), (0x20002005, 0x00#8), (0x20002006, 0xB2#8), (0x20002007, 0x00#8)],
      chan 0#32 8#32 0#32 4#32 0#32 true false, en true true false true,
      [.rxr 0xA2 0xB2, .cb .rx .ok 0x20002000#32 0x08002469#32]) := by decide

/-- P1 step 4 with the overrun of PU5: the latch comes first, two frames, the status is `OVERRUN`, the latch is cleared. -/
theorem test_irq_transmit_overrun :
    (nextOf (exec (.irq 0b0011#4) (sending k1 0#32))).map (fun t => (t.ch.tx, t.ctl.tx, t.trace)) =
    some (chan 0#32 8#32 0#32 4#32 0#32 true false, en true true false false,
      [.ovrClr .tx, .txw 1 2, .txw 3 4, .cb .tx .overrun 0x20000000#32 0x08001235#32]) := by decide

/-! ### DMA_DONE -/

/-- `RX` in DMA flight (after M2). -/
def dmaReceiving : State :=
  { ready k3 with
    ch := { tx := Channel.reset, rx := chan 0x20004000#32 16#32 0#32 0#32 0#32 true false }
    ctl := { tx := en false false false false, rx := en true true false true } }

/-- M8. -/
theorem test_dma_done_error :
    (nextOf (exec (.dmaDone .rx 0xFFFFFFFF#32) dmaReceiving)).map (fun t => (t.ch.rx.buffer, t.ch.rx.running, t.trace)) =
    some (0#32, true, [.cacheInv 0x20004000#32 16#32, .log (.errDmaStatus .rx 0xFFFFFFFF#32),
      .cb .rx .rxError 0x20004000#32 0x08002469#32]) := by decide

/-- M11: a completion for a pump-mode direction changes nothing. -/
theorem test_dma_done_ignored : exec (.dmaDone .tx 0#32) (sending k1 2#32) = .next (sending k1 2#32) := rfl

/-! ### Witnesses: concrete inputs that meet the hypotheses of each statement together, clause by clause -/

/-- A state with one stimulus to come. -/
def before (s : State) (x : Stimulus) : State := { s with pending := [x] }

/-- A receive in flight in mono, all of 0x20001000 to 0x20001003, one overrun flag up. -/
def receiving (p : Params) : State :=
  { ready p with
    cfg := { sampleRate := 48000#32, bitDepth := 16#32, channelCount := 1#32 }
    ch := { tx := Channel.reset, rx := chan 0x20001000#32 4#32 2#32 0#32 0#32 true false }
    ctl := { tx := en false false false false, rx := en true true true true }
    rxEntries := [(1, 2), (3, 4)] }

theorem core_ready : CoreInvariant (ready k1) where
  memoryCanonical := by decide
  configCoherent _ := by constructor <;> decide
  dmaQuiet := by intro d; cases d <;> decide
  inFlightRuns := by intro d; cases d <;> decide

theorem core_primed : CoreInvariant (primed false) where
  memoryCanonical := by decide
  configCoherent _ := by constructor <;> decide
  dmaQuiet := by intro d; cases d <;> decide
  inFlightRuns := by intro d; cases d <;> decide

theorem core_sending : CoreInvariant (sending k1a 2#32) where
  memoryCanonical := by decide
  configCoherent _ := by constructor <;> decide
  dmaQuiet := by intro d; cases d <;> decide
  inFlightRuns := by intro d; cases d <;> decide

theorem core_started : CoreInvariant (sending k1a 0#32) where
  memoryCanonical := by decide
  configCoherent _ := by constructor <;> decide
  dmaQuiet := by intro d; cases d <;> decide
  inFlightRuns := by intro d; cases d <;> decide

theorem core_receiving : CoreInvariant (receiving k1) where
  memoryCanonical := by decide
  configCoherent _ := by constructor <;> decide
  dmaQuiet := by intro d; cases d <;> decide
  inFlightRuns := by intro d; cases d <;> decide

theorem core_split : CoreInvariant splitReceiving where
  memoryCanonical := by decide
  configCoherent _ := by constructor <;> decide
  dmaQuiet := by intro d; cases d <;> decide
  inFlightRuns := by intro d; cases d <;> decide

theorem core_dma_sending : CoreInvariant (dmaSending []) where
  memoryCanonical := by decide
  configCoherent _ := by constructor <;> decide
  dmaQuiet := by intro d; cases d <;> decide
  inFlightRuns := by intro d; cases d <;> decide

theorem coherent_ready : TransfersCoherent (ready k1) := by
  intro d _ h
  cases d <;> exact absurd rfl h

theorem coherent_primed : TransfersCoherent (primed false) := by
  intro d _ h
  cases d <;> exact absurd rfl h

theorem coherent_dma_sending : TransfersCoherent (dmaSending []) := by
  intro d h
  cases d <;> exact absurd h (by decide)

theorem coherent_sending : TransfersCoherent (sending k1a 2#32) := by
  intro d _ h
  cases d
  · exact ⟨rfl, by constructor <;> first | decide | rfl⟩
  · exact absurd rfl h

theorem coherent_started : TransfersCoherent (sending k1a 0#32) := by
  intro d _ h
  cases d
  · exact ⟨rfl, by constructor <;> first | decide | rfl⟩
  · exact absurd rfl h

theorem coherent_receiving : TransfersCoherent (receiving k1) := by
  intro d _ h
  cases d
  · exact absurd rfl h
  · exact ⟨rfl, by constructor <;> first | decide | rfl⟩

theorem coherent_split : TransfersCoherent splitReceiving := by
  intro d _ h
  cases d
  · exact absurd rfl h
  · exact ⟨rfl, by constructor <;> first | decide | rfl⟩

theorem owned_sending : EnablesOwned (sending k1a 2#32) := by
  intro d
  cases d <;> decide

theorem enabled_sending : RunningEnabled (sending k1a 2#32) := by
  intro d
  cases d <;> decide

theorem witness_DecodeEncodeAgree :
    (Instr.dmaDone .rx 0xFFFFFFFF#32).wf = true ∧ decode (.cmd 0x00000035#32) = .ok .disableBoth := ⟨rfl, rfl⟩

theorem witness_IllegalCommandWords :
    ((before (ready k1) (.arrive (.cmd 0x00000032#32))).pending = [.arrive (.cmd 0x00000032#32)] ∧
      IllegalWord 0x00000032#32 ∧ IllegalWord 0x00000041#32 ∧ IllegalWord 0x00000007#32) ∧
    (before (ready k1) (.arrive (.cmd 0x00000035#32))).pending = [.arrive (.cmd 0x00000035#32)] ∧
      ¬ IllegalWord 0x00000035#32 := by
  unfold IllegalWord
  decide

theorem witness_StepRunsDecodedInstruction :
    Instr.send.wf = true ∧
    (before (ready k1) (.arrive (.cmd 3#32))).pending = [.arrive (.cmd 3#32)] ∧ decode (.cmd 3#32) = .ok .send ∧
    (before (ready k1) (.arrive (.evtIrq 15#4))).pending = [.arrive (.evtIrq 15#4)] ∧
      decode (.evtIrq 15#4) = .ok (.irq 15#4) ∧
    (before (ready k1) (.arrive (.evtDma 7#33))).pending = [.arrive (.evtDma 7#33)] ∧
      decode (.evtDma 7#33) = .ok (.dmaDone .tx 7#32) := ⟨rfl, rfl, rfl, rfl, rfl, rfl, rfl⟩

theorem witness_EnvironmentSteps :
    (ready k1).pending = [] ∧ (before (ready k1) (.operand 0 1#32)).pending = [.operand 0 1#32] ∧
    (before (ready k1) (.operand 1 1#32)).pending = [.operand 1 1#32] ∧
    (before (ready k1) (.operand 2 1#32)).pending = [.operand 2 1#32] ∧
    (before (ready k1) (.rawFlags 15#4)).pending = [.rawFlags 15#4] := ⟨rfl, rfl, rfl, rfl, rfl⟩

/-- The last borrowed byte and the first one after it. -/
theorem witness_MemoryAgents_host :
    ((before (sending k1 0#32) (.hostStore 0x20000007#32 9#8)).pending = [.hostStore 0x20000007#32 9#8] ∧
      (before (sending k1 0#32) (.hostStore 0x20000007#32 9#8)).borrowed .tx 0x20000007#32 = true) ∧
    ((before (sending k1 0#32) (.hostStore 0x20000008#32 9#8)).pending = [.hostStore 0x20000008#32 9#8] ∧
      (before (sending k1 0#32) (.hostStore 0x20000008#32 9#8)).borrowed .tx 0x20000008#32 = false ∧
      (before (sending k1 0#32) (.hostStore 0x20000008#32 9#8)).borrowed .rx 0x20000008#32 = false ∧
      (before (sending k1 0#32) (.hostStore 0x20000008#32 9#8)).mem.wf = true) ∧
    ((before (receiving k1) (.hostLoad 0x20001003#32)).pending = [.hostLoad 0x20001003#32] ∧
      (before (receiving k1) (.hostLoad 0x20001003#32)).borrowed .rx 0x20001003#32 = true) ∧
    (before (receiving k1) (.hostLoad 0x20001004#32)).pending = [.hostLoad 0x20001004#32] ∧
      (before (receiving k1) (.hostLoad 0x20001004#32)).borrowed .rx 0x20001004#32 = false := by decide

theorem witness_MemoryAgents_engine :
    ((before dmaReceiving (.engineStore 0x2000400F#32 9#8)).pending = [.engineStore 0x2000400F#32 9#8] ∧
      (before dmaReceiving (.engineStore 0x2000400F#32 9#8)).params.dma .rx = true ∧
      (before dmaReceiving (.engineStore 0x2000400F#32 9#8)).borrowed .rx 0x2000400F#32 = true ∧
      (before dmaReceiving (.engineStore 0x2000400F#32 9#8)).mem.wf = true) ∧
    (before dmaReceiving (.engineStore 0x20004010#32 9#8)).borrowed .rx 0x20004010#32 = false ∧
    (before (receiving k1) (.engineStore 0x20001000#32 9#8)).params.dma .rx = false := by decide

theorem witness_SuspendDrawsControls :
    ((before (ready k1) .suspend).pending = [.suspend] ∧ (before (ready k1) .suspend).ch.tx.buffer = null ∧
      (before (ready k1) .suspend).ch.rx.buffer = null) ∧
    (before (sending k1 0#32) .suspend).ch.tx.buffer ≠ null ∧ (before (receiving k1) .suspend).ch.rx.buffer ≠ null := by
  decide

theorem witness_PowerOnReset : (before (sending k1 2#32) .powerOn).pending = [.powerOn] := rfl

theorem witness_StepKeepsCoreInvariant :
    CoreInvariant (sending k1a 2#32) ∧ ∃ t, step (before (sending k1a 2#32) (.arrive (.evtIrq 1#4))) = .next t :=
  ⟨core_sending, _, rfl⟩

theorem witness_TransfersStayCoherent :
    CoreInvariant (sending k1a 2#32) ∧ TransfersCoherent (sending k1a 2#32) ∧
    (∃ t, exec (.irq 1#4) (sending k1a 2#32) = .next t) ∧
    (ready k1).ch.tx.buffer = null ∧ (ready k1).ch.rx.buffer = null ∧ (∃ t, exec .configure (ready k1) = .next t) :=
  ⟨core_sending, coherent_sending, ⟨_, rfl⟩, rfl, rfl, _, rfl⟩

theorem witness_EnablesStayOwned :
    ((withArgs (ready k1) 0#32 32#32 1#32).x1 = 32#32 ∧ (withArgs (ready k1) 0#32 32#32 1#32).x2 = 1#32) ∧
    EnablesOwned (sending k1a 2#32) ∧ ∃ t, exec (.irq 3#4) (sending k1a 2#32) = .next t :=
  ⟨⟨rfl, rfl⟩, owned_sending, _, rfl⟩

theorem witness_RunningStaysEnabled :
    Instr.irq 1#4 ≠ .configure ∧ RunningEnabled (sending k1a 2#32) ∧
    ∃ t, exec (.irq 1#4) (sending k1a 2#32) = .next t := ⟨by decide, enabled_sending, _, rfl⟩

theorem witness_ParametersLegalAndFixed : ∃ t, step (before (ready k2) (.arrive (.cmd 6#32))) = .next t := ⟨_, rfl⟩

/-- V8 (divisor 2) and V6 (divisor 1023). -/
theorem witness_CalculatorResult :
    clockCalc k1 16#32 1200000#32 = some (16, { divisor := 2, bclk := 38400000, achieved := 38400000, warn := false }) ∧
    clockCalc k1 16#32 2344#32 = some (16, { divisor := 1023, bclk := 75008, achieved := 75073, warn := true }) ∧
    k1.clockSourceHz % 38400000 = 0 := by decide

theorem witness_CalculatorLaws :
    2344#32 ≤ 1200000#32 ∧ (clkDivOf k1 16#32 2344#32).isSome = true ∧ (clkDivOf k1 16#32 1200000#32).isSome = true := by
  decide

/-- V13 and V17: both ends of the divisor's range, here with a depth of 32 and one channel. -/
theorem witness_ConfigureSucceeds :
    ((withArgs (ready k1) 600000#32 32#32 1#32).x1 = 32#32 ∧ (withArgs (ready k1) 600000#32 32#32 1#32).x2 = 1#32 ∧
      (withArgs (ready k1) 600000#32 32#32 1#32).x0 ≠ 0#32 ∧ 38400000 = 2 * (32#32).toNat * (600000#32).toNat ∧
      2 = (withArgs (ready k1) 600000#32 32#32 1#32).params.clockSourceHz / 38400000 ∧
      38400000 = (withArgs (ready k1) 600000#32 32#32 1#32).params.clockSourceHz / 2) ∧
    (withArgs (ready k1) 1172#32 32#32 2#32).x1 = 32#32 ∧ (withArgs (ready k1) 1172#32 32#32 2#32).x2 = 2#32 ∧
      75008 = 2 * (32#32).toNat * (1172#32).toNat ∧
      1023 = (withArgs (ready k1) 1172#32 32#32 2#32).params.clockSourceHz / 75008 ∧
      75073 = (withArgs (ready k1) 1172#32 32#32 2#32).params.clockSourceHz / 1023 := by decide

theorem witness_ConfigureRejectsArguments :
    ((withArgs (ready k1) 48000#32 33#32 2#32).x1 ≠ 16#32 ∧ (withArgs (ready k1) 48000#32 33#32 2#32).x1 ≠ 24#32 ∧
      (withArgs (ready k1) 48000#32 33#32 2#32).x1 ≠ 32#32) ∧
    (withArgs (ready k1) 48000#32 16#32 3#32).x2 ≠ 1#32 ∧ (withArgs (ready k1) 48000#32 16#32 3#32).x2 ≠ 2#32 := by decide

/-- V10, V9 and V7. -/
theorem witness_ConfigureDivisorFailure :
    ((withArgs (ready k1) 0#32 16#32 2#32).x1 = 16#32 ∧ (withArgs (ready k1) 0#32 16#32 2#32).x2 = 2#32 ∧
      (withArgs (ready k1) 0#32 16#32 2#32).x0 = 0#32) ∧
    ((withArgs (ready k1) 1200001#32 16#32 2#32).x1 = 16#32 ∧ (withArgs (ready k1) 1200001#32 16#32 2#32).x2 = 2#32 ∧
      1 = (withArgs (ready k1) 1200001#32 16#32 2#32).params.clockSourceHz / (2 * 16 * (1200001#32).toNat)) ∧
    (withArgs (ready k1) 2343#32 16#32 1#32).x1 = 16#32 ∧ (withArgs (ready k1) 2343#32 16#32 1#32).x2 = 1#32 ∧
      1024 = (withArgs (ready k1) 2343#32 16#32 1#32).params.clockSourceHz / (2 * 16 * (2343#32).toNat) := by decide

/-- The state after CF8's first command. -/
theorem witness_ConfigureIdempotent :
    (nextOf (exec .configure (withArgs (ready k1) 8000#32 16#32 1#32))).map (fun t => (t.res, t.trace)) =
    some (0#32, (withArgs (ready k1) 8000#32 16#32 1#32).trace ++ [.fifoClr .tx, .fifoClr .rx, .result .ok]) := by decide

theorem witness_ConfigureThenGetConfig :
    (withArgs (ready k1) 48000#32 16#32 2#32).x1 = 16#32 ∧ (withArgs (ready k1) 48000#32 16#32 2#32).x2 = 2#32 ∧
    (withArgs (ready k1) 48000#32 16#32 2#32).x0 ≠ 0#32 ∧
    (withArgs (ready k1) 48000#32 16#32 2#32).params.clockSourceHz / (2 * 16 * (48000#32).toNat) = 50 := by decide

theorem witness_ResumeRestoresConfiguration : CoreInvariant (ready k1) ∧ (ready k1).cfgValid = true := ⟨core_ready, rfl⟩

/-- `CONFIGURE` on a running transmit, pump and DMA, then an arm that is accepted (`TX` primed). -/
theorem witness_ConfigureLeavesRunningStale :
    (nextOf (exec .configure (withArgs (primed false) 8000#32 16#32 1#32))).map
      (fun t => (t.res, t.ch.tx.running,
        (nextOf (exec .send { t with x0 := 0x20000000#32, x1 := 4#32 })).map (·.res))) =
    some (0#32, true, some 0#32) ∧ (primed false).ch.tx.running = true := by decide

theorem witness_ConfigureStallsTransfer :
    (nextOf (exec .configure (withArgs (sending k1 2#32) 8000#32 16#32 1#32))).map
      (fun t => (t.res, (nextOf (exec (.irq 15#4) t)).isSome)) = some (0#32, true) ∧
    (sending k1 2#32).params.spec.statusMasked = true ∧ (sending k1 2#32).params.dma .tx = false ∧
    (sending k1 2#32).ch.tx.buffer ≠ null ∧ (sending k1 2#32).cb.tx ≠ 0#32 := by decide

theorem witness_OnlyUnpreparedArmsStop :
    State.reset.cfgValid = false ∧ (ready k1).cfgValid = true ∧
    ({ ready k1 with cb := { tx := 0#32, rx := 0#32 } } : State).cb.get .rx = 0#32 ∧
    (∀ d, Instr.getConfig = armInstr d → State.reset.cfgValid = true ∧ State.reset.cb.get d ≠ 0#32) ∧
    (∀ d, Instr.send = armInstr d → (ready k1).cfgValid = true ∧ (ready k1).cb.get d ≠ 0#32) := by
  refine ⟨rfl, rfl, rfl, ?_, ?_⟩ <;> intro d <;> cases d <;> decide

theorem witness_ArmRejections :
    ((withArgs (ready k1) 0#32 8#32 0#32).cfgValid = true ∧ (withArgs (ready k1) 0#32 8#32 0#32).cb.get .tx ≠ 0#32 ∧
      (withArgs (ready k1) 0#32 8#32 0#32).x0 = null ∧ (withArgs (ready k1) 4#32 0#32 0#32).x1 = 0#32) ∧
    ((withArgs (sending k1 0#32) 4#32 6#32 0#32).cfgValid = true ∧
      (withArgs (sending k1 0#32) 4#32 6#32 0#32).cb.get .tx ≠ 0#32 ∧
      (withArgs (sending k1 0#32) 4#32 6#32 0#32).x0 ≠ null ∧ (withArgs (sending k1 0#32) 4#32 6#32 0#32).x1 ≠ 0#32 ∧
      ((withArgs (sending k1 0#32) 4#32 6#32 0#32).ch.get .tx).buffer ≠ null) ∧
    (withArgs (ready k1) 4#32 6#32 0#32).x0 ≠ null ∧ (withArgs (ready k1) 4#32 6#32 0#32).x1 ≠ 0#32 ∧
      ((withArgs (ready k1) 4#32 6#32 0#32).ch.get .tx).buffer = null ∧
      (withArgs (ready k1) 4#32 6#32 0#32).x1.toNat % ((ready k1).cfg.channelCount.toNat *
        ((ready k1).cfg.bitDepth.toNat / 8)) ≠ 0 := by decide

/-- The smallest accepted length, one frame, on a fresh start and on a re-arm. -/
theorem witness_PumpArmCompletes :
    ((withArgs (ready k1) 0xFFFFFFFF#32 4#32 0#32).cfgValid = true ∧
      (withArgs (ready k1) 0xFFFFFFFF#32 4#32 0#32).cb.get .rx ≠ 0#32 ∧
      (withArgs (ready k1) 0xFFFFFFFF#32 4#32 0#32).x0 ≠ null ∧ (withArgs (ready k1) 0xFFFFFFFF#32 4#32 0#32).x1 ≠ 0#32 ∧
      ((withArgs (ready k1) 0xFFFFFFFF#32 4#32 0#32).ch.get .rx).buffer = null ∧
      (withArgs (ready k1) 0xFFFFFFFF#32 4#32 0#32).x1.toNat % ((ready k1).cfg.channelCount.toNat *
        ((ready k1).cfg.bitDepth.toNat / 8)) = 0 ∧
      (withArgs (ready k1) 0xFFFFFFFF#32 4#32 0#32).params.dma .rx = false ∧
      ((withArgs (ready k1) 0xFFFFFFFF#32 4#32 0#32).ch.get .rx).running = false) ∧
    (withArgs (primed true) 4#32 4#32 0#32).cfgValid = true ∧ (withArgs (primed true) 4#32 4#32 0#32).cb.get .tx ≠ 0#32 ∧
      ((withArgs (primed true) 4#32 4#32 0#32).ch.get .tx).buffer = null ∧
      (withArgs (primed true) 4#32 4#32 0#32).params.dma .tx = false ∧
      ((withArgs (primed true) 4#32 4#32 0#32).ch.get .tx).running = true := by decide

/-- A DMA transmit whose two requests get these answers. -/
def dmaArm (answers : List Word) : State :=
  { withArgs (ready k3) 0x20003000#32 16#32 0#32 with dmaAnswers := answers }

theorem witness_DmaArmCompletes :
    (dmaArm [0#32, 0#32]).cfgValid = true ∧ (dmaArm [0#32, 0#32]).cb.get .tx ≠ 0#32 ∧
    (dmaArm [0#32, 0#32]).x0 ≠ null ∧ (dmaArm [0#32, 0#32]).x1 ≠ 0#32 ∧
    ((dmaArm [0#32, 0#32]).ch.get .tx).buffer = null ∧
    (dmaArm [0#32, 0#32]).x1.toNat % ((dmaArm [0#32, 0#32]).cfg.channelCount.toNat *
      ((dmaArm [0#32, 0#32]).cfg.bitDepth.toNat / 8)) = 0 ∧
    (dmaArm [0#32, 0#32]).params.dma .tx = true ∧ (dmaArm [0#32, 0#32]).dmaAnswerAt 0 = 0#32 ∧
    (dmaArm [0#32, 0#32]).dmaAnswerAt 1 = 0#32 := by decide

/-- M3 and M4. -/
theorem witness_DmaArmRollsBack :
    ((dmaArm [22#32]).cfgValid = true ∧ (dmaArm [22#32]).cb.get .tx ≠ 0#32 ∧ (dmaArm [22#32]).x0 ≠ null ∧
      (dmaArm [22#32]).x1 ≠ 0#32 ∧ ((dmaArm [22#32]).ch.get .tx).buffer = null ∧
      (dmaArm [22#32]).x1.toNat % ((dmaArm [22#32]).cfg.channelCount.toNat * ((dmaArm [22#32]).cfg.bitDepth.toNat / 8)) = 0 ∧
      (dmaArm [22#32]).params.dma .tx = true ∧ (dmaArm [22#32]).dmaAnswerAt 0 ≠ 0#32) ∧
    (dmaArm [0#32, 5#32]).dmaAnswerAt 0 = 0#32 ∧ (dmaArm [0#32, 5#32]).dmaAnswerAt 1 ≠ 0#32 := by decide

theorem witness_DisableIsIdempotent :
    (nextOf (exec (disableInstr .tx) (sending k1 2#32))).map
      (fun t => (t.params.dma .tx, (nextOf (exec (armInstr .tx) { t with x0 := 4#32, x1 := 8#32 })).map (·.res))) =
    some (false, some 0#32) := by decide

theorem witness_AbortedTransferGetsNoCallback :
    disablesDir .disableBoth .tx = true ∧
    (nextOf (exec .disableBoth (dmaSending [0#32, 0#32]))).map (fun t => (nextOf (exec (.irq 15#4) t)).isSome) =
      some true := by decide

/-- `K1` with the mask taken away. -/
def unmasked : Params := ⟨{ spec 76800000 false .interleaved 2 with statusMasked := false }, by decide⟩

theorem witness_StatusWord :
    (ready k1).params.spec.statusMasked = true ∧ (ready unmasked).params.spec.statusMasked = false := by decide

theorem witness_InterruptLine :
    CoreInvariant (sending k1a 2#32) ∧ EnablesOwned (sending k1a 2#32) ∧
    ({ sending k1a 2#32 with raw := { tx := { rdy := true, ovr := false }, rx := low } } : State).irqLine = true ∧
    lineOf { rdy := true, ovr := false } ((sending k1a 2#32).ctl.get .tx) = true :=
  ⟨core_sending, owned_sending, by decide⟩

/-- S4 (masked bits) and S11 (a direction that does not run). -/
theorem witness_IdleActivation :
    (∀ d, (((primed false).status 0b0001#4).get d).rdy = false ∧ (((primed false).status 0b0001#4).get d).ovr = false) ∧
    ∀ d, ((ready k1).ch.get d).running = false := by
  constructor <;> intro d <;> cases d <;> decide

/-- `TX` primed with its overrun interrupt on (S5). -/
def watching (p : Params) : State :=
  { ready p with
    ch := { tx := chan 0#32 8#32 0#32 0#32 0#32 true false, rx := Channel.reset }
    ctl := { tx := en true true false true, rx := en false false false false } }

theorem witness_OverrunLatchedWithoutTransfer :
    (watching k1).params.dma .tx = false ∧ (watching k1).ch.tx.running = true ∧ (watching k1).ch.tx.buffer = null ∧
    (((watching k1).status 0b0010#4).get .tx).ovr = true ∧ (((watching k1).status 0b0010#4).get .rx).rdy = false ∧
    (((watching k1).status 0b0010#4).get .rx).ovr = false := by decide

/-- S8. -/
theorem witness_DmaOverrunLogged :
    ((watching k3).params.dma .tx = true ∧ (watching k3).ch.tx.running = true ∧
      (((watching k3).status 0b0010#4).get .tx).ovr = true ∧ (((watching k3).status 0b0010#4).get .rx).rdy = false ∧
      (((watching k3).status 0b0010#4).get .rx).ovr = false) ∧
    EnablesOwned (watching k3) ∧ (watching k3).params.spec.statusMasked = true :=
  ⟨by decide, by intro d; cases d <;> decide, rfl⟩

/-- One activation that completes the transfer and one that does not (PU4), with and without an overrun. -/
theorem witness_TransmitActivation :
    (CoreInvariant (sending k1a 2#32) ∧ TransfersCoherent (sending k1a 2#32) ∧ (sending k1a 2#32).ch.tx.buffer ≠ null ∧
      ((sending k1a 2#32).status 0b0011#4).tx = { rdy := true, ovr := true } ∧
      (sending k1a 2#32).framesMoved .tx = 1 ∧ (sending k1a 2#32).framesLeft .tx = 1) ∧
    CoreInvariant (sending k1a 0#32) ∧ TransfersCoherent (sending k1a 0#32) ∧
      ((sending k1a 0#32).status 0b0001#4).tx = { rdy := true, ovr := false } ∧
      (sending k1a 0#32).framesMoved .tx = 1 ∧ (sending k1a 0#32).framesLeft .tx = 2 :=
  ⟨⟨core_sending, coherent_sending, by decide⟩, core_started, coherent_started, by decide⟩

theorem witness_ReceiveActivation :
    (CoreInvariant (receiving k1) ∧ TransfersCoherent (receiving k1) ∧ (receiving k1).params.dma .rx = false ∧
      (receiving k1).ch.rx.buffer ≠ null ∧ ((receiving k1).status 0b0100#4).rx = { rdy := true, ovr := false } ∧
      (receiving k1).framesMoved .rx = 2 ∧ (receiving k1).framesLeft .rx = 2) ∧
    CoreInvariant splitReceiving ∧ TransfersCoherent splitReceiving ∧
      (splitReceiving.status 0b1100#4).rx = { rdy := true, ovr := true } ∧ splitReceiving.framesMoved .rx = 1 :=
  ⟨⟨core_receiving, coherent_receiving, by decide⟩, core_split, coherent_split, by decide⟩

/-- Two states that agree on transmit, on memory and on the receive entries and differ in the receive channel. -/
theorem witness_DirectionsIndependent :
    ({ sending k1 2#32 with ch := { tx := (sending k1 2#32).ch.tx, rx := (receiving k1).ch.rx } } : State).ch.get .tx =
      (sending k1 2#32).ch.get .tx ∧
    (rawOfWord 0b1101#4).get .tx = (rawOfWord 0b0001#4).get .tx ∧ (∃ t, exec (.irq 0b0001#4) (sending k1 2#32) = .next t) ∧
    ∃ t, exec (.irq 0b1101#4) { sending k1 2#32 with
      ch := { tx := (sending k1 2#32).ch.tx, rx := (receiving k1).ch.rx } } = .next t :=
  ⟨rfl, by decide, ⟨_, rfl⟩, _, rfl⟩

theorem witness_ActivationFrame : ∃ t, exec (.irq 0b1111#4) (sending k1 2#32) = .next t := ⟨_, rfl⟩

/-- Two frames at one frame an activation. -/
theorem witness_TransferCompletesInTime :
    CoreInvariant (sending k1a 0#32) ∧ TransfersCoherent (sending k1a 0#32) ∧ (sending k1a 0#32).params.dma .tx = false ∧
    (sending k1a 0#32).ch.tx.buffer ≠ null ∧ (((sending k1a 0#32).status 0b0001#4).get .tx).rdy = true ∧
    (sending k1a 0#32).framesLeft .tx = 2 ∧
    2 = ((sending k1a 0#32).framesLeft .tx + (sending k1a 0#32).params.trig .tx - 1) / (sending k1a 0#32).params.trig .tx :=
  ⟨core_started, coherent_started, by decide⟩

theorem witness_DmaDoneCompletes :
    (dmaSending []).params.dma .tx = true ∧ (dmaSending []).ch.tx.buffer ≠ null ∧
    dmaReceiving.params.dma .rx = true ∧ dmaReceiving.ch.rx.buffer ≠ null := by decide

theorem witness_DmaDoneIgnored :
    (sending k1 2#32).params.dma .tx = false ∧ ((dmaSending []).ch.get .rx).buffer = null := by decide

theorem witness_MemoryIsLittleEndian :
    (sending k1 0#32).params.spec.byteOrder = .little ∧ (sending k1 0#32).mem.wf = true ∧ 4 ≤ 2 ^ 32 := by decide

theorem witness_SampleReadsBack :
    (ready k1).mem.wf = true ∧ ConfigCoherent (ready k1) ∧ 0xFFFF < 2 ^ (ready k1).cfg.bitDepth.toNat :=
  ⟨rfl, core_ready.configCoherent rfl, by decide⟩

/-- The last byte of the right sample of the last frame of a split receive. -/
theorem witness_PumpStaysInBuffer :
    ConfigCoherent splitReceiving ∧ TransferCoherent splitReceiving .rx ∧ splitReceiving.ch.rx.buffer ≠ null ∧
    0 < splitReceiving.framesLeft .rx ∧ 3 ∈ splitReceiving.frameIndexes .rx 0 ∧ 1 < splitReceiving.bps :=
  ⟨core_split.configCoherent rfl, (coherent_split .rx rfl (by decide)).2, by decide⟩

/-- A receive that changes the byte at 0x20002002. -/
theorem witness_OnlyReceiveWritesMemory :
    CoreInvariant splitReceiving ∧ TransfersCoherent splitReceiving ∧
    (nextOf (exec (.irq 0b0100#4) splitReceiving)).map
      (fun t => decide (t.mem.read 0x20002002 = splitReceiving.mem.read 0x20002002)) = some false :=
  ⟨core_split, coherent_split, by decide⟩

/-- One run for each row of 10_state.md R34 that changes the phase. -/
theorem witness_PhaseTransitions :
    (CoreInvariant (ready k1) ∧ TransfersCoherent (ready k1) ∧
      (nextOf (exec .send (withArgs (ready k1) 4#32 8#32 0#32))).map (·.phase .tx) = some .armed) ∧
    (CoreInvariant (sending k1a 0#32) ∧ TransfersCoherent (sending k1a 0#32) ∧
      (nextOf (exec (.irq 1#4) (sending k1a 0#32))).map (·.phase .tx) = some .draining) ∧
    (CoreInvariant (sending k1a 2#32) ∧ TransfersCoherent (sending k1a 2#32) ∧
      (nextOf (exec (.irq 1#4) (sending k1a 2#32))).map (·.phase .tx) = some .primed) ∧
    CoreInvariant (dmaSending []) ∧ TransfersCoherent (dmaSending []) ∧
      (nextOf (exec (.dmaDone .tx 0#32) (dmaSending []))).map (·.phase .tx) = some .primed :=
  ⟨⟨core_ready, coherent_ready, by decide⟩, ⟨core_started, coherent_started, by decide⟩,
    ⟨core_sending, coherent_sending, by decide⟩, core_dma_sending, coherent_dma_sending, by decide⟩

/-- An activation that ends the transmit of the state, so that the list is not empty. -/
theorem witness_CallbackMarksCompletion :
    (nextOf (exec (.irq 1#4) (sending k1a 2#32))).map (fun t => (t.ch.tx.buffer, t.trace)) =
    some (0#32, [.txw 3 4, .cb .tx .ok 0x20000000#32 0x08001235#32]) := by decide

/-- A pointer that is set, one that is cleared, and a `running` that is written. -/
theorem witness_BufferPointerWriters :
    (nextOf (exec .send (withArgs (ready k1) 4#32 8#32 0#32))).map (fun t => (t.ch.tx.buffer, t.ch.tx.running)) =
      some (4#32, true) ∧
    (nextOf (exec .disableTx (sending k1 2#32))).map (fun t => (t.ch.tx.buffer, t.ch.tx.running)) =
      some (0#32, false) := by decide

theorem witness_ConfigurationWriters :
    (∃ t, exec .configure (ready k1) = .next t) ∧ ∃ t, exec .registerCallbackRx (ready k1) = .next t := ⟨⟨_, rfl⟩, _, rfl⟩

theorem witness_CommandRegisterWriters :
    (nextOf (exec .send (dmaArm [22#32]))).map (fun t => (t.res, t.x3)) = some (4#32, 22#32) := by decide

theorem witness_CommandEndsWithResult :
    isCommand .receive = true ∧ (∃ t, exec .receive (ready k1) = .next t) ∧ isCommand (.irq 1#4) = false ∧
    ∃ t, exec (.irq 1#4) (sending k1 2#32) = .next t := ⟨rfl, ⟨_, rfl⟩, rfl, _, rfl⟩

end Sys2Proof.Tests
end

/-! ### The parameters of an instance (00_scope.md R9, R10; 10_state.md R27 item 7) -/

namespace Sys2Proof

/-- The record check, condition by condition (70_reset_and_hazards.md R203 item 1). -/
theorem ParamSpec.wf_iff (p : ParamSpec) :
    p.wf = true ↔ 0 < p.clockSourceHz ∧ 0 < p.trigTx ∧ 0 < p.trigRx ∧
      ¬ (p.layout = .split ∧ (p.dmaTx = true ∨ p.dmaRx = true)) := by
  have layout : p.layoutAllowsDma = true ↔ ¬ (p.layout = .split ∧ (p.dmaTx = true ∨ p.dmaRx = true)) := by
    unfold ParamSpec.layoutAllowsDma
    cases p.layout <;> simp
  simp only [ParamSpec.wf, ParamSpec.clockPositive, ParamSpec.trigTxPositive, ParamSpec.trigRxPositive,
    Bool.and_eq_true, decide_eq_true_eq, layout, and_assoc]

namespace Machine

variable (s : State)

@[simp] theorem State.configure_params : s.configure.params = s.params := by
  rcases configure_cases s with ⟨_, h⟩ | ⟨w, _, _, ⟨_, h⟩ | ⟨c, _, h⟩⟩ <;> rw [h]
  · rfl
  · rfl
  · rw [configureWith_eq]

@[simp] theorem State.arm_params (d : Dir) : (s.arm d).params = s.params := by
  rcases arm_outcomes s d with ⟨_, h⟩ | ⟨_, _, _, h⟩ | ⟨_, _, _, _, h⟩ |
    ⟨_, _, _, _, ⟨_, h⟩ | ⟨_, ⟨_, h⟩ | ⟨_, _, h⟩ | ⟨_, _, h⟩⟩⟩ <;> rw [h]
  · rfl
  · rfl
  · rfl
  · rw [armPump_eq]
  · rw [rollbackConfigured_eq]
  · rw [rollbackStarted_eq]
  · rw [startedOk_eq]

@[simp] theorem State.disableOne_params (d : Dir) : (s.disableOne d).params = s.params := by
  rw [disableOne_eq]

@[simp] theorem State.latchArrival_params (a : Arrival) : (s.latchArrival a).params = s.params := by
  cases a <;> rfl

@[simp] theorem State.accept_params (rest : List Stimulus) (a : Arrival) : (s.accept rest a).params = s.params :=
  State.latchArrival_params _ a

@[simp] theorem State.writeOperand_params (i : Fin 3) (v : Word) : (s.writeOperand i v).params = s.params := by
  unfold State.writeOperand
  split <;> rfl

variable {s} {t : State}

/-- No operation changes the parameters. -/
theorem exec_params {i : Instr} (h : exec i s = .next t) : t.params = s.params := by
  rcases exec_cases h with ⟨_, rfl⟩ | ⟨_, rfl⟩ | ⟨_, rfl⟩ | ⟨_, _, _, rfl⟩ | ⟨_, _, _, rfl⟩ | ⟨_, rfl⟩ | ⟨_, rfl⟩
      | ⟨_, rfl⟩ | ⟨_, rfl⟩ | ⟨r, _, rfl⟩ | ⟨d, st, _, rfl⟩
  · exact s.configure_params
  · rfl
  · rfl
  · exact s.arm_params .tx
  · exact s.arm_params .rx
  · exact s.disableOne_params .tx
  · exact s.disableOne_params .rx
  · simp
  · rfl
  · exact ((enterIrq_frame s r).trans (dispatch_frame _ _)).params
  · exact (dmaDone_frame s d st).params

/-- No step changes the parameters. What an agent does, a suspend and a power-on reset included, writes other fields of the record, so those cases hold by computation. -/
theorem step_params (h : step s = .next t) : t.params = s.params := by
  rcases step_cases h with ⟨_, rfl⟩ | ⟨a, rest, _, ⟨i, _, he⟩ | ⟨e, _, rfl⟩⟩ | ⟨i, v, rest, _, rfl⟩ |
    ⟨a, v, rest, _, rfl⟩ | ⟨a, rest, _, rfl⟩ | ⟨r, rest, _, rfl⟩ | ⟨rest, _, rfl⟩ | ⟨rest, _, rfl⟩
  · rfl
  · exact (exec_params he).trans (s.accept_params rest a)
  · exact s.accept_params rest a
  · exact State.writeOperand_params _ i v
  all_goals rfl

/-- Settles O17: the legality carried by `Params`, and the case analysis of a step. -/
theorem parametersLegalAndFixed : Obligations.ParametersLegalAndFixed := by
  unfold Obligations.ParametersLegalAndFixed
  exact ⟨fun p => (ParamSpec.wf_iff p.spec).mp p.legal, fun _ _ => step_params⟩

end Machine
end Sys2Proof

/-! ### The operations in terms of their direction -/

namespace Sys2Proof.Machine

/-- `exec_cases` with the two directions of an operation as one case. -/
theorem exec_kinds {i : Instr} {s t : State} (h : exec i s = .next t) :
    (i = .configure ∧ t = s.configure) ∨
    (∃ d, i = registerInstr d ∧ t = s.registerCallback d) ∨
    (∃ d, i = armInstr d ∧ s.cfgValid = true ∧ t = s.arm d) ∨
    (∃ d, i = disableInstr d ∧ t = (s.disableOne d).finish .ok) ∨
    (i = .disableBoth ∧ t = ((s.disableOne .tx).disableOne .rx).finish .ok) ∨
    (i = .getConfig ∧ t = s.getConfig) ∨
    (∃ r, i = .irq r ∧ t = (s.enterIrq r).dispatch (s.status r)) ∨
    (∃ d st, i = .dmaDone d st ∧ t = s.dmaDone d st) := by
  rcases exec_cases h with k | k | k | ⟨hi, hv, _, ht⟩ | ⟨hi, hv, _, ht⟩ | k | k | k | k | k | k
  · exact .inl k
  · exact .inr (.inl ⟨.tx, k⟩)
  · exact .inr (.inl ⟨.rx, k⟩)
  · exact .inr (.inr (.inl ⟨.tx, hi, hv, ht⟩))
  · exact .inr (.inr (.inl ⟨.rx, hi, hv, ht⟩))
  · exact .inr (.inr (.inr (.inl ⟨.tx, k⟩)))
  · exact .inr (.inr (.inr (.inl ⟨.rx, k⟩)))
  · exact .inr (.inr (.inr (.inr (.inl k))))
  · exact .inr (.inr (.inr (.inr (.inr (.inl k)))))
  · exact .inr (.inr (.inr (.inr (.inr (.inr (.inl k))))))
  · exact .inr (.inr (.inr (.inr (.inr (.inr (.inr k))))))

theorem disablesDir_disableInstr (d : Dir) : disablesDir (disableInstr d) d = true := by cases d <;> rfl

/-- An activation as a whole is an event operation. -/
theorem irq_frame (s : State) (r : BitVec 4) : EventFrame s ((s.enterIrq r).dispatch (s.status r)) :=
  (enterIrq_frame s r).trans (dispatch_frame _ _)

/-! ### `CoreInvariant`, step by step (10_state.md R23 to R27) -/

/-- `CoreInvariant` speaks of none of the elements an agent writes, but of the canonical form of memory. -/
theorem agent_core {s t : State} (h : CoreInvariant s) (hm : t.mem.wf = true)
    (ht : t = { s with
      x0 := t.x0, x1 := t.x1, x2 := t.x2, cmd := t.cmd, ctl := t.ctl, raw := t.raw, mem := t.mem
      pending := t.pending, draws := t.draws }) : CoreInvariant t := by
  rw [ht]
  exact h.of_ch hm rfl rfl rfl rfl rfl rfl rfl rfl fun d => ⟨h.inFlightRuns d, h.dmaQuiet d⟩

theorem accept_core {s : State} (h : CoreInvariant s) (rest : List Stimulus) (a : Arrival) :
    CoreInvariant (s.accept rest a) := by
  cases a <;> exact agent_core h h.memoryCanonical rfl

theorem writeOperand_core {s : State} (h : CoreInvariant s) (rest : List Stimulus) (i : Fin 3) (v : Word) :
    CoreInvariant ({ s with pending := rest }.writeOperand i v) := by
  unfold State.writeOperand
  split <;> exact agent_core h h.memoryCanonical rfl

theorem storeByte_core {s : State} (h : CoreInvariant s) (rest : List Stimulus) (a : Word) (v : Byte) :
    CoreInvariant ({ s with pending := rest }.storeByte a v) :=
  agent_core h (Memory.wf_store v a.isLt h.memoryCanonical) rfl

/-- With no valid configuration and both Channel records at their reset values, canonical memory is enough. -/
theorem core_of_reset_ch {s : State} (hm : s.mem.wf = true) (hv : s.cfgValid = false)
    (hch : ∀ d, s.ch.get d = Channel.reset) : CoreInvariant s where
  memoryCanonical := hm
  configCoherent h := by rw [hv] at h; cases h
  dmaQuiet d _ := by rw [hch]; exact ⟨rfl, rfl, rfl, rfl⟩
  inFlightRuns d hb := by rw [hch] at hb; exact absurd rfl hb

theorem powerOnReset_core {s : State} (hm : s.mem.wf = true) : CoreInvariant s.powerOnReset :=
  core_of_reset_ch hm rfl fun d => by cases d <;> rfl

/-- Settles O13: `CoreInvariant` through the operations (`exec_core`) and through what the agents do. -/
theorem stepKeepsCoreInvariant : Obligations.StepKeepsCoreInvariant := by
  unfold Obligations.StepKeepsCoreInvariant
  intro s t h hs
  rcases step_cases hs with ⟨_, rfl⟩ | ⟨a, rest, _, ⟨i, _, he⟩ | ⟨e, _, rfl⟩⟩ | ⟨i, v, rest, _, rfl⟩ |
    ⟨a, v, rest, _, rfl⟩ | ⟨a, rest, _, rfl⟩ | ⟨r, rest, _, rfl⟩ | ⟨rest, _, rfl⟩ | ⟨rest, _, rfl⟩
  · exact h
  · exact exec_core (accept_core h rest a) he
  · exact finish_core (accept_core h rest a) _
  · exact writeOperand_core h rest i v
  · exact storeByte_core h rest a v
  · exact agent_core h h.memoryCanonical rfl
  · exact agent_core h h.memoryCanonical rfl
  · exact agent_core h h.memoryCanonical rfl
  · exact powerOnReset_core h.memoryCanonical

/-! ### `TransfersCoherent`, operation by operation (10_state.md R27 items 2 and 6) -/

/-- Coherence is vacuous without a transfer in flight. -/
theorem transfersCoherent_of_no_flight {s : State} (h : ∀ d, (s.ch.get d).buffer = null) : TransfersCoherent s :=
  fun d _ hb => absurd (h d) hb

/-- Coherence speaks of none of the elements a command's end, a query or a registration writes. -/
theorem TransfersCoherent.of_same {s t : State} (h : TransfersCoherent s) (hp : t.params = s.params)
    (hc : t.cfg = s.cfg) (hv : t.cfgValid = s.cfgValid) (hch : t.ch = s.ch) : TransfersCoherent t :=
  h.of_ch hp hc hv fun d _ => .inr (.inl (by rw [hch]))

/-- `CONFIGURE` writes no Channel record (41_configure.md R108). -/
theorem configure_ch (s : State) : s.configure.ch = s.ch := by
  rcases configure_cases s with ⟨_, h⟩ | ⟨w, _, _, ⟨_, h⟩ | ⟨c, _, h⟩⟩ <;> rw [h]
  · rfl
  · rfl
  · rw [configureWith_eq]

theorem dispatch_transfers {s : State} (h : CoreInvariant s) (ht : TransfersCoherent s) (st : PerDir StatusBits) :
    TransfersCoherent (s.dispatch st) :=
  route_transfers (route_core h .tx st.tx) (route_transfers h ht .tx st.tx) .rx st.rx

/-- Settles O14: `TransfersCoherent`, operation by operation. -/
theorem transfersStayCoherent : Obligations.TransfersStayCoherent := by
  unfold Obligations.TransfersStayCoherent
  intro i s t h ht hconf he
  rcases exec_kinds he with ⟨hi, rfl⟩ | ⟨d, _, rfl⟩ | ⟨d, _, hv, rfl⟩ | ⟨d, _, rfl⟩ | ⟨_, rfl⟩ | ⟨_, rfl⟩ |
    ⟨r, _, rfl⟩ | ⟨d, st, _, rfl⟩
  case inl =>
    obtain ⟨htx, hrx⟩ := hconf hi
    refine transfersCoherent_of_no_flight fun d => ?_
    rw [configure_ch]
    cases d
    · exact htx
    · exact hrx
  · exact ht.of_same rfl rfl rfl rfl
  · exact arm_transfers h ht hv d
  · exact (disableOne_transfers ht d).of_same rfl rfl rfl rfl
  · exact (disableOne_transfers (disableOne_transfers ht .tx) .rx).of_same rfl rfl rfl rfl
  · exact ht.of_same rfl rfl rfl rfl
  · exact dispatch_transfers (enterIrq_core h r) (enterIrq_transfers ht r) _
  · exact dmaDone_transfers ht d st

end Sys2Proof.Machine

/-! ### Command words that select no operation (30_encoding.md R80) -/

namespace Sys2Proof.Machine

/-- A word that encodes an operation is one of the nine of 30_encoding.md R74: not illegal, and its operation a command. -/
theorem legal_of_encode {i : Instr} {w : BitVec 32} (h : encode i = .cmd w) :
    ¬ IllegalWord w ∧ isCommand i = true := by
  unfold IllegalWord
  cases i <;> cases h <;> decide

theorem decodeCmd_of_illegal {w : BitVec 32} (h : IllegalWord w) : ∃ e, decodeCmd w = .error e := by
  cases hd : decodeCmd w with
  | ok i => exact absurd h (legal_of_encode (decodeCmd_ok hd)).1
  | error e => exact ⟨e, rfl⟩

theorem illegalWord_of_error {w : BitVec 32} {e : Reject} (h : decodeCmd w = .error e) : IllegalWord w := by
  have := decodeCmd_error h
  unfold IllegalWord
  omega

theorem decodeCmd_of_legal {w : BitVec 32} (h : ¬ IllegalWord w) : ∃ i, isCommand i = true ∧ decodeCmd w = .ok i := by
  cases hd : decodeCmd w with
  | ok i => exact ⟨i, (legal_of_encode (decodeCmd_ok hd)).2, rfl⟩
  | error e => exact absurd (illegalWord_of_error hd) h

/-! ### One step, by the stimulus that comes next -/

section
variable {s : State} {rest : List Stimulus}

theorem step_nil (h : s.pending = []) : step s = .next s := by
  unfold step; rw [h]

theorem step_arrive {a : Arrival} (h : s.pending = .arrive a :: rest) : step s = runArrival a (s.accept rest a) := by
  unfold step; rw [h]

theorem step_operand {i : Fin 3} {v : Word} (h : s.pending = .operand i v :: rest) :
    step s = .next ({ s with pending := rest }.writeOperand i v) := by
  unfold step; rw [h]

theorem step_rawFlags {r : BitVec 4} (h : s.pending = .rawFlags r :: rest) :
    step s = .next ({ s with pending := rest }.driveRaw r) := by
  unfold step; rw [h]

theorem step_powerOn (h : s.pending = .powerOn :: rest) :
    step s = .next { s with pending := rest }.powerOnReset := by
  unfold step; rw [h]

theorem runArrival_ok {a : Arrival} {i : Instr} (h : decode a = .ok i) : runArrival a s = exec i s := by
  unfold runArrival; rw [h]

theorem runArrival_error {a : Arrival} {e : Reject} (h : decode a = .error e) :
    runArrival a s = .next s.illegalCommand := by
  unfold runArrival; rw [h]

end

/-- Settles O3: an illegal word is rejected by the decoder, every other one is a command's. -/
theorem illegalCommandWords : Obligations.IllegalCommandWords := by
  unfold Obligations.IllegalCommandWords
  intro w s rest hp
  constructor
  · intro hw
    obtain ⟨e, he⟩ := decodeCmd_of_illegal hw
    rw [step_arrive hp, runArrival_error (a := .cmd w) he]
    rfl
  · exact decodeCmd_of_legal

/-- Settles O6: the step of an arriving word, port by port. -/
theorem stepRunsDecodedInstruction : Obligations.StepRunsDecodedInstruction := by
  unfold Obligations.StepRunsDecodedInstruction
  intro s rest i _
  refine ⟨fun w hp hd => ?_, fun r hp hd => ?_, fun w hp hd => ?_⟩ <;> rw [step_arrive hp, runArrival_ok hd] <;> rfl

/-- Settles O7: the idle step and the steps of the host's and the serial interface's own writes. -/
theorem environmentSteps : Obligations.EnvironmentSteps := by
  unfold Obligations.EnvironmentSteps
  exact fun s rest => ⟨step_nil, fun _ => step_operand, fun _ => step_operand, fun _ => step_operand,
    fun _ => step_rawFlags⟩

/-- Settles O10: the step of a power-on reset, with its draw named. -/
theorem powerOnReset : Obligations.PowerOnReset := by
  unfold Obligations.PowerOnReset
  intro s rest p hp hdraw
  rw [step_powerOn hp, hdraw]
  rfl

theorem reset_ch (d : Dir) : State.reset.ch.get d = Channel.reset := by cases d <;> rfl

/-- Settles O12: at reset there is no valid configuration, no transfer and no running channel. -/
theorem resetMeetsInvariants : Obligations.ResetMeetsInvariants := by
  unfold Obligations.ResetMeetsInvariants
  refine ⟨core_of_reset_ch rfl rfl reset_ch, transfersCoherent_of_no_flight fun d => ?_, fun d hr => ?_⟩
  · rw [reset_ch]; rfl
  · rw [reset_ch] at hr; cases hr

/-! ### Owners of the interrupt enables (10_state.md R27 item 5) -/

/-- No enable of direction `d` is turned on, and while its FIFO interrupt stays on so does its buffer. -/
structure EnablesNarrow (d : Dir) (s t : State) : Prop where
  fifo : (t.ctl.get d).fifoIe = true → (s.ctl.get d).fifoIe = true ∧ (t.ch.get d).buffer = (s.ch.get d).buffer
  ovr : (t.ctl.get d).ovrIe = true → (s.ctl.get d).ovrIe = true

theorem EnablesNarrow.of_same {d : Dir} {s t : State} (hctl : t.ctl.get d = s.ctl.get d)
    (hch : t.ch.get d = s.ch.get d) : EnablesNarrow d s t := by
  constructor <;> rw [hctl]
  · rw [hch]; exact fun hf => ⟨hf, rfl⟩
  · exact id

/-- A pump invocation turns enables of its direction off only (44_pump.md R131, R137). -/
theorem pump_narrow (s : State) (d : Dir) (ovr : Bool) : EnablesNarrow d s (s.pump d ovr) := by
  constructor <;> rcases pump_cases s d ovr with ⟨_, h⟩ | ⟨_, ⟨_, h⟩ | ⟨_, h⟩⟩ <;> rw [h]
  · simp [State.latchIf_ctl, State.latchIf_ch]
  · obtain ⟨c, i, e⟩ := pumpFrames_ch (s.latchIf d ovr) d (s.params.trig d)
    simp [e, State.latchIf_ctl, State.latchIf_ch]
  · simp [(complete_spec _ d).2.1]
  · simp +contextual [State.latchIf_ctl]
  · simp +contextual [State.latchIf_ctl]
  · simp +contextual [(complete_spec _ d).2.1, State.latchIf_ctl]

theorem route_narrow (s : State) (d e : Dir) (b : StatusBits) : EnablesNarrow e s (s.route d b) := by
  by_cases hed : e = d
  · subst hed
    rcases route_cases s e b with ⟨_, h⟩ | ⟨_, _, ⟨_, h⟩ | ⟨_, h⟩⟩ <;> rw [h]
    · exact .of_same rfl rfl
    · exact .of_same rfl rfl
    · exact pump_narrow s e b.ovr
  · exact .of_same (route_dirFrame s hed b).ctl (route_dirFrame s hed b).ch

theorem route_owned {s : State} (h : EnablesOwned s) (d : Dir) (b : StatusBits) : EnablesOwned (s.route d b) := by
  have fr := route_frame s d b
  intro e
  obtain ⟨hfifo, hovr⟩ := route_narrow s d e b
  rw [fr.params, fr.running]
  refine ⟨fun hf => ?_, fun ho => (h e).2 (hovr ho)⟩
  obtain ⟨hf', hb⟩ := hfifo hf
  rw [hb]
  exact (h e).1 hf'

/-- `EnablesOwned` speaks of the Channel records, the controls and the parameters only. -/
theorem EnablesOwned.of_same {s t : State} (h : EnablesOwned s) (hp : t.params = s.params) (hch : t.ch = s.ch)
    (hctl : t.ctl = s.ctl) : EnablesOwned t := by
  intro d
  rw [hp, hch, hctl]
  exact h d

theorem arm_owned {s : State} (h : EnablesOwned s) (d : Dir) : EnablesOwned (s.arm d) := by
  intro e
  rw [State.arm_params]
  by_cases hed : e = d
  · subst hed
    obtain ⟨hfifo, hovr⟩ := h e
    rcases arm_own s e with ⟨hch, hctl, _⟩ | ⟨hx, _, _, hd, _, hch, hctl⟩ | ⟨hb, _, _, hch, hctl⟩ |
      ⟨_, hb, _, _, hch, hctl⟩ <;> rw [hch, hctl]
    · exact ⟨hfifo, hovr⟩
    · exact ⟨fun _ => ⟨hd, hx⟩, fun _ => rfl⟩
    · exact ⟨fun hf => absurd hb (hfifo hf).2, hovr⟩
    · exact ⟨fun hf => absurd hb (hfifo hf).2, fun _ => rfl⟩
  · obtain ⟨hch, hctl⟩ := arm_other s hed
    rw [hch, hctl]
    exact h e

theorem disableOne_owned {s : State} (h : EnablesOwned s) (d : Dir) : EnablesOwned (s.disableOne d) := by
  intro e
  rw [State.disableOne_params]
  by_cases hed : e = d
  · subst hed
    rw [disableOne_outcome]
    simp
  · obtain ⟨hch, hctl⟩ := disableOne_other s hed
    rw [hch, hctl]
    exact h e

theorem dmaDone_owned {s : State} (h : EnablesOwned s) (d : Dir) (st : Word) : EnablesOwned (s.dmaDone d st) := by
  rcases dmaDone_cases s d st with ⟨_, e⟩ | ⟨hdma, _, e⟩ <;> rw [e]
  · exact h
  · obtain ⟨hch, hctl, _⟩ := dmaComplete_spec s d st
    have fr := dmaComplete_frame s d st
    intro c
    rw [fr.params, fr.running, hctl, hch]
    refine ⟨fun hf => ?_, (h c).2⟩
    obtain ⟨hpump, hb⟩ := (h c).1 hf
    have hcd : c ≠ d := by rintro rfl; rw [hdma] at hpump; cases hpump
    rw [PerDir.get_set_other _ _ _ _ hcd]
    exact ⟨hpump, hb⟩

/-- With every enable off there is nothing to own. -/
theorem enablesOwned_of_off {s : State}
    (h : ∀ d, (s.ctl.get d).fifoIe = false ∧ (s.ctl.get d).ovrIe = false) : EnablesOwned s := by
  intro d
  obtain ⟨hf, ho⟩ := h d
  simp [hf, ho]

/-- `CONFIGURE` rejects its arguments and changes no enable, or turns all four off (41_configure.md R101, R102). -/
theorem configure_enables (s : State) :
    (((wssLookup s.params s.x1 = none) ∨ (s.x2 ≠ 1#32 ∧ s.x2 ≠ 2#32)) ∧ s.configure.ctl = s.ctl) ∨
    ∀ d, (s.configure.ctl.get d).fifoIe = false ∧ (s.configure.ctl.get d).ovrIe = false := by
  rcases configure_cases s with ⟨hr, h⟩ | ⟨w, _, _, ⟨_, h⟩ | ⟨c, _, h⟩⟩ <;> rw [h]
  · exact .inl ⟨hr, rfl⟩
  · exact .inr fun d => by cases d <;> exact ⟨rfl, rfl⟩
  · rw [configureWith_eq]
    exact .inr fun d => by cases d <;> exact ⟨rfl, rfl⟩

theorem configure_establishes_owned {s : State} (hdepth : s.x1 = 16#32 ∨ s.x1 = 24#32 ∨ s.x1 = 32#32)
    (hcount : s.x2 = 1#32 ∨ s.x2 = 2#32) : EnablesOwned s.configure := by
  rcases configure_enables s with ⟨hw | ⟨h1, h2⟩, _⟩ | h
  · have := (wssLookup_isSome s.params s.x1).mpr hdepth
    rw [hw] at this
    cases this
  · exact absurd hcount (not_or.mpr ⟨h1, h2⟩)
  · exact enablesOwned_of_off h

theorem configure_owned {s : State} (h : EnablesOwned s) : EnablesOwned s.configure := by
  rcases configure_enables s with ⟨_, hctl⟩ | hoff
  · exact h.of_same s.configure_params (configure_ch s) hctl
  · exact enablesOwned_of_off hoff

/-- Settles O15: `EnablesOwned` established by `CONFIGURE` and kept, operation by operation. -/
theorem enablesStayOwned : Obligations.EnablesStayOwned := by
  unfold Obligations.EnablesStayOwned
  refine ⟨fun s hdepth hcount => ⟨s.configure, rfl, configure_establishes_owned hdepth hcount⟩, fun i s t h he => ?_⟩
  rcases exec_kinds he with ⟨_, rfl⟩ | ⟨d, _, rfl⟩ | ⟨d, _, _, rfl⟩ | ⟨d, _, rfl⟩ | ⟨_, rfl⟩ | ⟨_, rfl⟩ |
    ⟨r, _, rfl⟩ | ⟨d, st, _, rfl⟩
  · exact configure_owned h
  · exact h.of_same rfl rfl rfl
  · exact arm_owned h d
  · exact (disableOne_owned h d).of_same rfl rfl rfl
  · exact (disableOne_owned (disableOne_owned h .tx) .rx).of_same rfl rfl rfl
  · exact h.of_same rfl rfl rfl
  · exact route_owned (route_owned (h.of_same (t := s.enterIrq r) rfl rfl rfl) .tx _) .rx _
  · exact dmaDone_owned h d st

/-! ### A running channel is enabled (10_state.md R27 item 4) -/

/-- `RunningEnabled` speaks of the Channel records and the controls only. -/
theorem RunningEnabled.of_same {s t : State} (h : RunningEnabled s) (hch : t.ch = s.ch) (hctl : t.ctl = s.ctl) :
    RunningEnabled t := by
  intro d
  rw [hch, hctl]
  exact h d

/-- No event operation writes `running`, `chan_en` or `blk_en`. -/
theorem event_runningEnabled {s t : State} (h : RunningEnabled s) (f : EventFrame s t) : RunningEnabled t := by
  intro d
  rw [f.running, f.chanEn, f.blkEn]
  exact h d

theorem arm_runningEnabled {s : State} (h : RunningEnabled s) (d : Dir) : RunningEnabled (s.arm d) := by
  intro e
  by_cases hed : e = d
  · subst hed
    have started : ∀ en : Bool, ((s.ch.get e).running = true → en = true) → (en || !(s.ch.get e).running) = true := by
      intro en hen
      cases hr : (s.ch.get e).running
      · simp
      · simp [hen hr]
    have hch := started _ fun hr => (h e hr).1
    have hblk := started _ fun hr => (h e hr).2
    rcases arm_own s e with ⟨k, l, _⟩ | ⟨_, _, _, _, _, k, l⟩ | ⟨_, _, _, k, l⟩ | ⟨_, _, _, _, k, l⟩ <;> rw [k, l]
    · exact h e
    · exact fun _ => ⟨hch, hblk⟩
    · exact h e
    · exact fun _ => ⟨hch, hblk⟩
  · obtain ⟨hch, hctl⟩ := arm_other s hed
    rw [hch, hctl]
    exact h e

theorem disableOne_runningEnabled {s : State} (h : RunningEnabled s) (d : Dir) : RunningEnabled (s.disableOne d) := by
  intro e
  by_cases hed : e = d
  · subst hed
    rw [disableOne_outcome]
    simp
  · obtain ⟨hch, hctl⟩ := disableOne_other s hed
    rw [hch, hctl]
    exact h e

/-- Settles O16: `RunningEnabled`, operation by operation. -/
theorem runningStaysEnabled : Obligations.RunningStaysEnabled := by
  unfold Obligations.RunningStaysEnabled
  intro i s t hne h he
  rcases exec_kinds he with ⟨hi, _⟩ | ⟨d, _, rfl⟩ | ⟨d, _, _, rfl⟩ | ⟨d, _, rfl⟩ | ⟨_, rfl⟩ | ⟨_, rfl⟩ |
    ⟨r, _, rfl⟩ | ⟨d, st, _, rfl⟩
  · exact absurd hi hne
  · exact h.of_same rfl rfl
  · exact arm_runningEnabled h d
  · exact (disableOne_runningEnabled h d).of_same rfl rfl
  · exact (disableOne_runningEnabled (disableOne_runningEnabled h .tx) .rx).of_same rfl rfl
  · exact h.of_same rfl rfl
  · exact event_runningEnabled h (irq_frame s r)
  · exact event_runningEnabled h (dmaDone_frame s d st)

end Sys2Proof.Machine

/-! ### The phases of a direction (10_state.md R33) -/

namespace Sys2Proof.Machine

section
variable {s t : State} {d : Dir}

theorem phase_of_null (h : (s.ch.get d).buffer = null) :
    s.phase d = if (s.ch.get d).running then .primed else .idle := by
  unfold State.phase
  rw [if_pos h]

theorem phase_of_flight (h : (s.ch.get d).buffer ≠ null) :
    s.phase d = if s.params.dma d = true ∨ (s.ch.get d).count = 0#32 then .armed else .draining := by
  unfold State.phase
  rw [if_neg h]
  simp

theorem phase_idle_iff : s.phase d = .idle ↔ (s.ch.get d).buffer = null ∧ (s.ch.get d).running = false := by
  by_cases hb : (s.ch.get d).buffer = null
  · rw [phase_of_null hb]
    cases (s.ch.get d).running <;> simp [hb]
  · rw [phase_of_flight hb]
    split <;> simp [hb]

theorem phase_primed_iff : s.phase d = .primed ↔ (s.ch.get d).buffer = null ∧ (s.ch.get d).running = true := by
  by_cases hb : (s.ch.get d).buffer = null
  · rw [phase_of_null hb]
    cases (s.ch.get d).running <;> simp [hb]
  · rw [phase_of_flight hb]
    split <;> simp [hb]

theorem phase_armed_iff : s.phase d = .armed ↔
    (s.ch.get d).buffer ≠ null ∧ (s.params.dma d = true ∨ (s.ch.get d).count = 0#32) := by
  by_cases hb : (s.ch.get d).buffer = null
  · rw [phase_of_null hb]
    cases (s.ch.get d).running <;> simp [hb]
  · rw [phase_of_flight hb, and_iff_right hb]
    split <;> rename_i hc <;> simp [hc]

theorem phase_draining_iff : s.phase d = .draining ↔
    (s.ch.get d).buffer ≠ null ∧ s.params.dma d = false ∧ 0 < (s.ch.get d).count.toNat := by
  have hn : 0 < (s.ch.get d).count.toNat ↔ (s.ch.get d).count ≠ 0#32 := by
    rw [Nat.pos_iff_ne_zero, ne_eq, ne_eq, ← BitVec.toNat_inj, BitVec.toNat_ofNat, Nat.zero_mod]
  by_cases hb : (s.ch.get d).buffer = null
  · rw [phase_of_null hb]
    cases (s.ch.get d).running <;> simp [hb]
  · rw [phase_of_flight hb, hn]
    simp [hb]

theorem armedFlag_iff : s.armedFlag d = true ↔ (s.ch.get d).buffer ≠ null := decide_eq_true_iff

theorem drainingFlag_iff : s.drainingFlag d = true ↔ s.phase d = .draining := by
  rw [phase_draining_iff, State.drainingFlag, Bool.and_eq_true, Bool.and_eq_true, armedFlag_iff, and_assoc,
    Bool.not_eq_true', decide_eq_true_iff]

/-- The elements a direction's phase is a function of. -/
theorem phase_congr (hp : t.params = s.params) (hb : (t.ch.get d).buffer = (s.ch.get d).buffer)
    (hr : (t.ch.get d).running = (s.ch.get d).running) (hn : (t.ch.get d).count = (s.ch.get d).count) :
    t.phase d = s.phase d := by
  unfold State.phase
  rw [hp, hb, hr, hn]

theorem phase_congr_ch (hp : t.params = s.params) (hch : t.ch.get d = s.ch.get d) : t.phase d = s.phase d :=
  phase_congr hp (by rw [hch]) (by rw [hch]) (by rw [hch])

theorem idle_or_primed_of_no_flight (hb : (s.ch.get d).buffer = null) : s.phase d = .idle ∨ s.phase d = .primed := by
  rw [phase_of_null hb]
  cases (s.ch.get d).running <;> simp

theorem armed_or_draining_of_flight (hb : (s.ch.get d).buffer ≠ null) : s.phase d = .armed ∨ s.phase d = .draining := by
  rw [phase_of_flight hb]
  split <;> simp

end

/-- Settles O54: the phase by its conditions, and the views of 10_state.md R32. -/
theorem phaseConditions : Obligations.PhaseConditions := by
  unfold Obligations.PhaseConditions
  exact fun s d => ⟨phase_idle_iff, phase_primed_iff, phase_armed_iff, phase_draining_iff, armedFlag_iff,
    drainingFlag_iff, rfl⟩

/-! ### The moves between phases (10_state.md R34) -/

/-- The moves of the table that an activation makes: none, into a transfer, or to its end. -/
def IrqMove (d : Dir) (s t : State) : Prop :=
  t.phase d = s.phase d ∨
  (s.phase d = .armed ∧ s.params.dma d = false ∧ t.phase d = .draining) ∨
  ((s.phase d = .armed ∨ s.phase d = .draining) ∧ s.params.dma d = false ∧ t.phase d = .primed)

/-- The progress counter does not fall while a pump-mode transfer goes on. -/
theorem pump_count_mono {s : State} {d : Dir} (ovr : Bool) (hb : (s.ch.get d).buffer ≠ null)
    (h : TransferCoherent s d) (hf : LegalFormat s) (hn : s.completesNow d = false) :
    (s.ch.get d).count.toNat ≤ ((s.pump d ovr).ch.get d).count.toNat := by
  obtain ⟨_, hcount, _⟩ := pumpFrames_progress (s.params.trig d) (latchIf_coherent h ovr) (latchIf_format hf d ovr)
  rw [pump_eq ovr hb h hf, if_neg (by simp [hn]), hcount, State.latchIf_ch]
  exact Nat.le_add_right _ _

/-- A pump invocation on a direction with no transfer in flight leaves its phase (44_pump.md R132). -/
theorem pump_phase_of_no_flight {s : State} {d : Dir} (ovr : Bool) (hb : (s.ch.get d).buffer = null) :
    (s.pump d ovr).phase d = s.phase d := by
  rcases pump_cases s d ovr with ⟨_, h⟩ | ⟨hn, _⟩
  · rw [h]
    apply phase_congr (latchIf_frame s d ovr).params <;> rw [State.latchIf_ch]
  · exact absurd hb hn

/-- A pump invocation on a transfer in flight (44_pump.md R137, R141): it goes on, draining once a frame has moved, or ends. -/
theorem pump_phase_of_flight {s : State} {d : Dir} (hi : CoreInvariant s) (ht : TransfersCoherent s)
    (hd : s.params.dma d = false) (ovr : Bool) (hb : (s.ch.get d).buffer ≠ null) : IrqMove d s (s.pump d ovr) := by
  obtain ⟨hc, hf, hr⟩ := inflight_facts hi ht hd hb
  have fr := pump_frame s d ovr
  cases hn : s.completesNow d
  case true =>
    refine .inr (.inr ⟨armed_or_draining_of_flight hb, hd, phase_primed_iff.mpr ⟨?_, by rw [fr.running]; exact hr⟩⟩)
    rw [pump_ch ovr hb hc hf, hn]
    rfl
  case false =>
    have hb' : ((s.pump d ovr).ch.get d).buffer ≠ null := by
      rw [pump_ch ovr hb hc hf, hn]
      exact hb
    have hd' : (s.pump d ovr).params.dma d = false := by rw [fr.params]; exact hd
    have hmono := pump_count_mono ovr hb hc hf hn
    rcases armed_or_draining_of_flight hb with ha | hdr
    · rcases armed_or_draining_of_flight hb' with ha' | hdr'
      · exact .inl (ha'.trans ha.symm)
      · exact .inr (.inl ⟨ha, hd, hdr'⟩)
    · obtain ⟨_, _, hpos⟩ := phase_draining_iff.mp hdr
      exact .inl ((phase_draining_iff.mpr ⟨hb', hd', Nat.lt_of_lt_of_le hpos hmono⟩).trans hdr.symm)

theorem route_phase_own {s : State} (hi : CoreInvariant s) (ht : TransfersCoherent s) (d : Dir) (b : StatusBits) :
    IrqMove d s (s.route d b) := by
  rcases route_cases s d b with ⟨_, h⟩ | ⟨_, _, ⟨_, h⟩ | ⟨hd, h⟩⟩ <;> rw [h]
  · exact .inl rfl
  · exact .inl rfl
  · by_cases hb : (s.ch.get d).buffer = null
    · exact .inl (pump_phase_of_no_flight b.ovr hb)
    · exact pump_phase_of_flight hi ht hd b.ovr hb

theorem route_phase_other (s : State) {d e : Dir} (he : e ≠ d) (b : StatusBits) :
    (s.route d b).phase e = s.phase e :=
  phase_congr_ch (route_frame s d b).params (route_dirFrame s he b).ch

/-- An activation moves each direction as its own part of the dispatcher does (45_dispatch.md R152). -/
theorem irq_phase {s : State} (hi : CoreInvariant s) (ht : TransfersCoherent s) (r : BitVec 4) (d : Dir) :
    IrqMove d s ((s.enterIrq r).dispatch (s.status r)) := by
  have hi' := enterIrq_core hi r
  have ht' := enterIrq_transfers ht r
  cases d
  case tx =>
    have move : IrqMove .tx (s.enterIrq r) _ := route_phase_own hi' ht' .tx (s.status r).tx
    unfold IrqMove State.dispatch
    rw [route_phase_other _ (by decide)]
    exact move
  case rx =>
    have kept : ((s.enterIrq r).route .tx (s.status r).tx).phase .rx = s.phase .rx :=
      route_phase_other (s.enterIrq r) (by decide) _
    have move : IrqMove .rx ((s.enterIrq r).route .tx (s.status r).tx) _ :=
      route_phase_own (route_core hi' .tx _) (route_transfers hi' ht' .tx _) .rx (s.status r).rx
    unfold IrqMove at move
    rw [kept, (route_frame _ _ _).params] at move
    exact move

theorem arm_phase_other (s : State) {d e : Dir} (he : e ≠ d) : (s.arm d).phase e = s.phase e :=
  phase_congr_ch (s.arm_params d) (arm_other s he).1

/-- An arm leaves the phase of its direction, or is accepted and makes it armed (42_arm.md R110; 43_dma.md R120, R121). -/
theorem arm_phase_own (s : State) (d : Dir) : (s.arm d).phase d = s.phase d ∨
    ((s.phase d = .idle ∨ s.phase d = .primed) ∧ (s.arm d).res = 0#32 ∧ (s.arm d).phase d = .armed) := by
  have hp := s.arm_params d
  rcases arm_own s d with ⟨hch, _⟩ | ⟨hx, hb, _, _, hres, hch, _⟩ | ⟨hb, _, _, hch, _⟩ | ⟨hx, hb, hd, hres, hch, _⟩
  · exact .inl (phase_congr_ch hp hch)
  · refine .inr ⟨idle_or_primed_of_no_flight hb, hres, phase_armed_iff.mpr ?_⟩
    rw [hch]
    exact ⟨hx, .inr rfl⟩
  · refine .inl (phase_congr hp ?_ ?_ ?_) <;> rw [hch]
    exact hb.symm
  · refine .inr ⟨idle_or_primed_of_no_flight hb, hres, phase_armed_iff.mpr ?_⟩
    rw [hch, hp]
    exact ⟨hx, .inl hd⟩

theorem disableOne_phase_own (s : State) (d : Dir) : (s.disableOne d).phase d = .idle := by
  rw [phase_idle_iff, disableOne_outcome]
  simp

theorem disableOne_phase_other (s : State) {d e : Dir} (he : e ≠ d) : (s.disableOne d).phase e = s.phase e :=
  phase_congr_ch (s.disableOne_params d) (disableOne_other s he).1

/-- `DISABLE BOTH` leaves every direction idle (46_disable.md R161). -/
theorem disableBoth_phase (s : State) (d : Dir) : ((s.disableOne .tx).disableOne .rx).phase d = .idle := by
  cases d
  · rw [disableOne_phase_other _ (by decide)]
    exact disableOne_phase_own s .tx
  · exact disableOne_phase_own _ .rx

/-- A DMA completion leaves a direction's phase, or ends the transfer of the direction it names (43_dma.md R123, R124). -/
theorem dmaDone_phase {s : State} (hi : CoreInvariant s) (d e : Dir) (st : Word) :
    (s.dmaDone e st).phase d = s.phase d ∨
    (d = e ∧ s.phase d = .armed ∧ s.params.dma d = true ∧ (s.dmaDone e st).phase d = .primed) := by
  rcases dmaDone_cases s e st with ⟨_, h⟩ | ⟨hdma, hb, h⟩ <;> rw [h]
  · exact .inl rfl
  · have fr := dmaComplete_frame s e st
    obtain ⟨hch, _⟩ := dmaComplete_spec s e st
    by_cases hde : d = e
    · subst hde
      refine .inr ⟨rfl, phase_armed_iff.mpr ⟨hb, .inl hdma⟩, hdma, phase_primed_iff.mpr ⟨?_, ?_⟩⟩
      · rw [hch, PerDir.get_set_same]
      · rw [fr.running]
        exact hi.inFlightRuns d hb
    · exact .inl (phase_congr_ch fr.params (by rw [hch, PerDir.get_set_other _ _ _ _ hde]))

/-- Settles O55: the rows of 10_state.md R34, operation by operation. -/
theorem phaseTransitions : Obligations.PhaseTransitions := by
  unfold Obligations.PhaseTransitions
  intro i s t d hi ht he
  rcases exec_kinds he with ⟨_, rfl⟩ | ⟨e, _, rfl⟩ | ⟨e, hinstr, _, rfl⟩ | ⟨e, hinstr, rfl⟩ | ⟨hinstr, rfl⟩ | ⟨_, rfl⟩ |
    ⟨r, hinstr, rfl⟩ | ⟨e, st, hinstr, rfl⟩
  · exact .inl (phase_congr_ch s.configure_params (by rw [configure_ch]))
  · exact .inl rfl
  · by_cases hde : d = e
    · subst hde
      rcases arm_phase_own s d with h | ⟨hs, hres, h⟩
      · exact .inl h
      · exact .inr (.inl ⟨hs, hinstr, hres, h⟩)
    · exact .inl (arm_phase_other s hde)
  · by_cases hde : d = e
    · subst hde
      refine .inr (.inr (.inr (.inr (.inr ⟨?_, disableOne_phase_own s d⟩))))
      rw [hinstr]
      exact disablesDir_disableInstr d
    · exact .inl (disableOne_phase_other s hde)
  · refine .inr (.inr (.inr (.inr (.inr ⟨?_, disableBoth_phase s d⟩))))
    rw [hinstr]
    cases d <;> rfl
  · exact .inl rfl
  · rcases irq_phase hi ht r d with h | ⟨hs, hd, h⟩ | ⟨hs, hd, h⟩
    · exact .inl h
    · exact .inr (.inr (.inl ⟨hs, hd, ⟨r, hinstr⟩, h⟩))
    · exact .inr (.inr (.inr (.inl ⟨hs, hd, ⟨r, hinstr⟩, h⟩)))
  · rcases dmaDone_phase hi d e st with h | ⟨rfl, hs, hd, h⟩
    · exact .inl h
    · exact .inr (.inr (.inr (.inr (.inl ⟨hs, hd, ⟨st, hinstr⟩, h⟩))))

/-! ### Who writes the command registers and the configuration (10_state.md R21 to R29) -/

/-- What `SEND`, `RECEIVE`, `DISABLE` and the event operations never write. -/
structure TransferFrame (s t : State) : Prop where
  x0 : t.x0 = s.x0
  x1 : t.x1 = s.x1
  x2 : t.x2 = s.x2
  x4 : t.x4 = s.x4
  x5 : t.x5 = s.x5
  cmd : t.cmd = s.cmd
  cfg : t.cfg = s.cfg
  cfgValid : t.cfgValid = s.cfgValid
  clkDiv : t.clkDiv = s.clkDiv
  wss : t.wss = s.wss
  clkEn : t.clkEn = s.clkEn
  achievedBclk : t.achievedBclk = s.achievedBclk
  clkWarn : t.clkWarn = s.clkWarn
  cb : t.cb = s.cb
  wlen : ∀ d, (t.ctl.get d).wlen = (s.ctl.get d).wlen

theorem EventFrame.transferFrame {s t : State} (f : EventFrame s t) : TransferFrame s t where
  x0 := f.x0
  x1 := f.x1
  x2 := f.x2
  x4 := f.x4
  x5 := f.x5
  cmd := f.cmd
  cfg := f.cfg
  cfgValid := f.cfgValid
  clkDiv := f.clkDiv
  wss := f.wss
  clkEn := f.clkEn
  achievedBclk := f.achievedBclk
  clkWarn := f.clkWarn
  cb := f.cb
  wlen := f.wlen

theorem TransferFrame.trans {s t u : State} (h : TransferFrame s t) (k : TransferFrame t u) : TransferFrame s u := by
  cases h; cases k
  constructor <;> simp_all

/-- A command's end writes `RES` and the trace only. -/
theorem finish_transferFrame (s : State) (c : ResultCode) : TransferFrame s (s.finish c) := by
  constructor
  case wlen => exact fun _ => rfl
  all_goals rfl

theorem arm_wlen (s : State) (d e : Dir) : ((s.arm d).ctl.get e).wlen = (s.ctl.get e).wlen := by
  by_cases hed : e = d
  · subst hed
    rcases arm_own s e with ⟨_, h, _⟩ | ⟨_, _, _, _, _, _, h⟩ | ⟨_, _, _, _, h⟩ | ⟨_, _, _, _, _, h⟩ <;> rw [h]
  · rw [(arm_other s hed).2]

/-- The elements an arm can write, and no other. -/
theorem arm_writes (s : State) (d : Dir) : s.arm d = { s with
    ch := (s.arm d).ch, ctl := (s.arm d).ctl, x3 := (s.arm d).x3, res := (s.arm d).res
    dmaAnswers := (s.arm d).dmaAnswers, draws := (s.arm d).draws, trace := (s.arm d).trace } := by
  rcases arm_outcomes s d with ⟨_, h⟩ | ⟨_, _, _, h⟩ | ⟨_, _, _, _, h⟩ |
    ⟨_, _, _, _, ⟨_, h⟩ | ⟨_, ⟨_, h⟩ | ⟨_, _, h⟩ | ⟨_, _, h⟩⟩⟩ <;> rw [h]
  · rfl
  · rfl
  · rfl
  · rw [armPump_eq]
  · rw [rollbackConfigured_eq]
  · rw [rollbackStarted_eq]
  · rw [startedOk_eq]

theorem arm_transferFrame (s : State) (d : Dir) : TransferFrame s (s.arm d) := by
  constructor
  case wlen => exact arm_wlen s d
  all_goals rw [arm_writes]

/-- `x[3]` is written by a rolled-back DMA arm only (43_dma.md R121). -/
theorem arm_x3 (s : State) (d : Dir) :
    (s.arm d).x3 = s.x3 ∨ ((s.arm d).res = 4#32 ∧ s.params.dma d = true) := by
  rcases arm_outcomes s d with ⟨_, h⟩ | ⟨_, _, _, h⟩ | ⟨_, _, _, _, h⟩ |
    ⟨_, _, _, _, ⟨_, h⟩ | ⟨hd, ⟨_, h⟩ | ⟨_, _, h⟩ | ⟨_, _, h⟩⟩⟩ <;> rw [h]
  · exact .inl rfl
  · exact .inl rfl
  · exact .inl rfl
  · rw [armPump_eq]; exact .inl rfl
  · rw [rollbackConfigured_eq]; exact .inr ⟨rfl, hd⟩
  · rw [rollbackStarted_eq]; exact .inr ⟨rfl, hd⟩
  · rw [startedOk_eq]; exact .inl rfl

theorem disableOne_transferFrame (s : State) (d : Dir) : TransferFrame s (s.disableOne d) := by
  constructor
  case wlen =>
    intro e
    by_cases hed : e = d
    · subst hed
      rw [disableOne_outcome]
      simp
    · rw [(disableOne_other s hed).2]
  all_goals rw [disableOne_outcome]

@[simp] theorem State.disableOne_x3 (s : State) (d : Dir) : (s.disableOne d).x3 = s.x3 := by
  rw [disableOne_outcome]

/-- The elements `CONFIGURE` can write, and no other (41_configure.md R108). -/
theorem configure_writes (s : State) : s.configure = { s with
    ctl := s.configure.ctl, cfg := s.configure.cfg, cfgValid := s.configure.cfgValid, clkDiv := s.configure.clkDiv
    wss := s.configure.wss, clkEn := s.configure.clkEn, achievedBclk := s.configure.achievedBclk
    clkWarn := s.configure.clkWarn, res := s.configure.res, draws := s.configure.draws, trace := s.configure.trace } := by
  rcases configure_cases s with ⟨_, h⟩ | ⟨w, _, _, ⟨_, h⟩ | ⟨c, _, h⟩⟩ <;> rw [h]
  · rfl
  · rfl
  · rw [configureWith_eq]

/-- `CONFIGURE` leaves the block enables on or off as they were (41_configure.md R102). -/
theorem configure_blkEn (s : State) (d : Dir) : (s.configure.ctl.get d).blkEn = (s.ctl.get d).blkEn := by
  rcases configure_cases s with ⟨_, h⟩ | ⟨w, _, _, ⟨_, h⟩ | ⟨c, _, h⟩⟩ <;> rw [h]
  · rfl
  · cases d <;> rfl
  · rw [configureWith_eq]
    cases d <;> rfl

/-- `CONFIGURE`, a registration and `GET_CONFIG` aside, an operation stays within `TransferFrame`. -/
theorem exec_transferFrame {i : Instr} {s t : State} (h : exec i s = .next t) :
    (i = .configure ∧ t = s.configure) ∨ (∃ d, i = registerInstr d ∧ t = s.registerCallback d) ∨
    (i = .getConfig ∧ t = s.getConfig) ∨ TransferFrame s t := by
  rcases exec_kinds h with k | k | ⟨d, _, _, rfl⟩ | ⟨d, _, rfl⟩ | ⟨_, rfl⟩ | k | ⟨r, _, rfl⟩ | ⟨d, st, _, rfl⟩
  · exact .inl k
  · exact .inr (.inl k)
  · exact .inr (.inr (.inr (arm_transferFrame s d)))
  · exact .inr (.inr (.inr ((disableOne_transferFrame s d).trans (finish_transferFrame _ _))))
  · exact .inr (.inr (.inr (((disableOne_transferFrame s .tx).trans (disableOne_transferFrame _ .rx)).trans
      (finish_transferFrame _ _))))
  · exact .inr (.inr (.inl k))
  · exact .inr (.inr (.inr (irq_frame s r).transferFrame))
  · exact .inr (.inr (.inr (dmaDone_frame s d st).transferFrame))

/-- A registration writes the handle of its own direction only (47_query.md R166). -/
theorem registerCallback_cb (s : State) (d e : Dir) (h : registerInstr d ≠ registerInstr e) :
    (s.registerCallback d).cb.get e = s.cb.get e :=
  PerDir.get_set_other s.cb d e s.argCallback fun he => h (by rw [he])

/-- Settles O58: within `TransferFrame` nothing of the configuration is written; the three other operations one by one. -/
theorem configurationWriters : Obligations.ConfigurationWriters := by
  unfold Obligations.ConfigurationWriters
  intro i s t he
  refine ⟨?_, fun d => ?_, ?_⟩
  · rcases exec_transferFrame he with ⟨hi, _⟩ | ⟨d, _, rfl⟩ | ⟨_, rfl⟩ | f
    · exact .inl hi
    · exact .inr ⟨rfl, rfl, rfl, rfl, rfl, rfl, rfl, fun _ => rfl⟩
    · exact .inr ⟨rfl, rfl, rfl, rfl, rfl, rfl, rfl, fun _ => rfl⟩
    · exact .inr ⟨f.cfg, f.cfgValid, f.clkDiv, f.wss, f.clkEn, f.achievedBclk, f.clkWarn, f.wlen⟩
  · rw [Classical.or_iff_not_imp_left]
    intro hne
    rcases exec_transferFrame he with ⟨_, rfl⟩ | ⟨e, rfl, rfl⟩ | ⟨_, rfl⟩ | f
    · rw [configure_writes]
    · exact registerCallback_cb s e d hne
    · rfl
    · rw [f.cb]
  · rintro rfl
    cases he
    exact ⟨configure_ch s, configure_blkEn s⟩

/-- `x[3]` is written by `GET_CONFIG` and by a rolled-back DMA arm only (10_state.md R21). -/
theorem exec_x3 {i : Instr} {s t : State} (h : exec i s = .next t) :
    t.x3 = s.x3 ∨ i = .getConfig ∨ ∃ d, i = armInstr d ∧ t.res = 4#32 ∧ s.params.dma d = true := by
  rcases exec_kinds h with ⟨_, rfl⟩ | ⟨d, _, rfl⟩ | ⟨d, hi, _, rfl⟩ | ⟨d, _, rfl⟩ | ⟨_, rfl⟩ | ⟨hi, _⟩ | ⟨r, _, rfl⟩ |
    ⟨d, st, _, rfl⟩
  · left; rw [configure_writes]
  · exact .inl rfl
  · exact (arm_x3 s d).imp_right fun k => .inr ⟨d, hi, k⟩
  · exact .inl (s.disableOne_x3 d)
  · exact .inl (((s.disableOne .tx).disableOne_x3 .rx).trans (s.disableOne_x3 .tx))
  · exact .inr (.inl hi)
  · exact .inl (irq_frame s r).x3
  · exact .inl (dmaDone_frame s d st).x3

/-- `RES` is written by commands only (10_state.md R21). -/
theorem exec_res {i : Instr} {s t : State} (h : exec i s = .next t) : t.res = s.res ∨ isCommand i = true := by
  cases i with
  | irq r => cases h; exact .inl (irq_frame s r).res
  | dmaDone d st => cases h; exact .inl (dmaDone_frame s d st).res
  | _ => exact .inr rfl

/-- Settles O59: the registers outside every operation's frame, then `x[3]` to `x[5]` and `RES` by their writers. -/
theorem commandRegisterWriters : Obligations.CommandRegisterWriters := by
  unfold Obligations.CommandRegisterWriters
  intro i s t he
  have hx3 := exec_x3 he
  have hres := exec_res he
  rcases exec_transferFrame he with ⟨_, rfl⟩ | ⟨d, _, rfl⟩ | ⟨hi, rfl⟩ | f
  · refine ⟨?_, ?_, ?_, ?_, hx3, .inl ?_, .inl ?_, hres⟩ <;> rw [configure_writes]
  · exact ⟨rfl, rfl, rfl, rfl, hx3, .inl rfl, .inl rfl, hres⟩
  · exact ⟨rfl, rfl, rfl, rfl, hx3, .inr hi, .inr hi, hres⟩
  · exact ⟨f.x0, f.x1, f.x2, f.cmd, hx3, .inl f.x4, .inl f.x5, hres⟩

end Sys2Proof.Machine

/-! ### `MemRead` and `MemWrite` byte by byte (20_memory.md R52) -/

namespace Sys2Proof.Machine

/-- A digit to base 256 of a number, by its place. -/
theorem getElem_bytesOfValue : ∀ (n v k : Nat) (hk : k < (bytesOfValue n v).length),
    (bytesOfValue n v)[k] = BitVec.ofNat 8 (v / 256 ^ k)
  | n + 1, v, 0, _ => by simp [bytesOfValue]
  | n + 1, v, k + 1, hk => by
    simp only [bytesOfValue, List.getElem_cons_succ, getElem_bytesOfValue n]
    rw [Nat.div_div_eq_div_mul, Nat.pow_succ']

/-- The number that `n` bytes of memory make, the least significant first. -/
theorem valueOfBytes_loadBytes (m : Memory) : ∀ (n a : Nat), valueOfBytes (m.loadBytes a n) =
    ((List.range n).map fun k => (m.read ((a + k) % addrSpace)).toNat * 256 ^ k).sum
  | 0, _ => rfl
  | n + 1, a => by
    rw [List.range_succ_eq_map, List.map_cons, List.map_map, List.sum_cons, Memory.loadBytes, valueOfBytes,
      valueOfBytes_loadBytes m n (a + 1), ← List.sum_map_mul_left, Nat.pow_zero, Nat.mul_one, Nat.add_zero]
    congr 3
    funext k
    rw [Function.comp_apply, Nat.succ_eq_add_one, Nat.pow_succ', Nat.add_right_comm, Nat.add_assoc,
      Nat.mul_left_comm]

section
variable {s : State} (ho : s.params.spec.byteOrder = .little)
include ho

theorem memRead_little (a n : Nat) : s.memRead a n = valueOfBytes (s.mem.loadBytes a n) := by
  unfold State.memRead inByteOrder
  rw [ho]

theorem memWrite_little (a n v : Nat) : (s.memWrite a n v).mem = s.mem.storeBytes a (bytesOfValue n v) := by
  rw [State.memWrite_mem, ho]
  rfl

/-- Each byte a little-endian `MemWrite` stores. -/
theorem read_memWrite_little (hw : s.mem.wf = true) (a v : Nat) {n k : Nat} (hn : n ≤ addrSpace) (hk : k < n) :
    ((s.memWrite a n v).mem.read ((a + k) % addrSpace)).toNat = v / 256 ^ k % 256 := by
  rw [memWrite_little ho, Memory.read_storeBytes_inside _ a hw (by simpa using hn) k (by simpa using hk),
    getElem_bytesOfValue, BitVec.toNat_ofNat]

end

/-- Settles O50: the read as the number its bytes make, the write by its digits, its frame and the canonical form. -/
theorem memoryIsLittleEndian : Obligations.MemoryIsLittleEndian := by
  unfold Obligations.MemoryIsLittleEndian
  intro s ho
  refine ⟨fun a n => ?_, fun a n v hw hn => ⟨fun k hk => ?_, fun c hc => ?_, ?_⟩⟩
  · rw [memRead_little ho, valueOfBytes_loadBytes]
  · exact read_memWrite_little ho hw a v hn hk
  · exact read_memWrite_outside hw a n v c hc
  · exact State.memWrite_wf hw a n v

/-! ### Sample values (20_memory.md R53) -/

/-- What `MemRead` answers is a number of `n` bytes, in either byte order. -/
theorem memRead_lt (s : State) (a n : Nat) : s.memRead a n < 256 ^ n := by
  have h := valueOfBytes_lt (inByteOrder s.params.spec.byteOrder (s.mem.loadBytes a n))
  rwa [length_inByteOrder, Memory.length_loadBytes] at h

theorem rd_lt {s : State} (hf : LegalFormat s) (d : Dir) (i : Nat) : s.rd d i < 2 ^ s.cfg.bitDepth.toNat := by
  rw [hf.port]
  exact memRead_lt s _ _

theorem rd_wr_same {s : State} (hw : s.mem.wf = true) (hf : LegalFormat s) (d : Dir) (i : Nat) {v : Nat}
    (hv : v < 2 ^ s.cfg.bitDepth.toNat) : (s.wr d i v).rd d i = v := by
  have h := memRead_wr_same hw hf d i v
  unfold State.portValue at h
  rwa [Nat.mod_eq_of_lt hv] at h

/-- Settles O51: a sample has `bit_depth / 8` whole bytes, so its value is neither cut nor extended. -/
theorem sampleReadsBack : Obligations.SampleReadsBack := by
  unfold Obligations.SampleReadsBack
  intro s d i v hw hc hv
  have port : ∀ x, s.portValue x < 2 ^ s.cfg.bitDepth.toNat := fun x => Nat.mod_lt x (Nat.two_pow_pos _)
  exact ⟨rd_wr_same hw hc.format d i hv, rd_lt hc.format d, port _, port _⟩

/-! ### The bytes the pump touches (20_memory.md R58) -/

/-- Settles O52: the samples of a frame still to move are samples of the transfer, and those lie in the buffer. -/
theorem pumpStaysInBuffer : Obligations.PumpStaysInBuffer := by
  unfold Obligations.PumpStaysInBuffer
  intro s d k i b hc ht hb hk hi hbps
  have hlt := frameIndexes_lt ht hc.format hk hi
  exact ⟨hlt, borrowed_sample hb ht hlt hbps (BitVec.toNat_ofNat _ _)⟩

/-! ### Which operations write memory (20_memory.md R50, R56) -/

theorem borrowed_congr {s t : State} {d : Dir} (h : t.ch.get d = s.ch.get d) (a : Word) :
    t.borrowed d a = s.borrowed d a := by
  unfold State.borrowed State.inFlight State.inBuffer
  rw [h]

/-- Every byte a receive invocation stores to is borrowed. -/
theorem borrowed_of_rxStoresTo {s : State} (hb : (s.ch.get .rx).buffer ≠ null) (h : TransferCoherent s .rx)
    (hf : LegalFormat s) {a : Word} (ha : s.rxStoresTo (s.framesMoved .rx) a.toNat) : s.borrowed .rx a = true := by
  obtain ⟨k, hk, i, hi, b, hbps, he⟩ := ha
  have hleft : k < s.framesLeft .rx := Nat.lt_of_lt_of_le hk (Nat.min_le_right _ _)
  exact borrowed_sample hb h (frameIndexes_lt h hf hleft hi) hbps he

/-- The receive part of an activation writes memory in pump mode only, inside the borrowed buffer. -/
theorem route_rx_writes {s : State} (h : CoreInvariant s) (ht : TransfersCoherent s) (b : StatusBits) {a : Word}
    (hne : (s.route .rx b).mem.read a.toNat ≠ s.mem.read a.toNat) :
    s.params.dma .rx = false ∧ s.borrowed .rx a = true := by
  rcases route_cases s .rx b with ⟨_, hr⟩ | ⟨_, _, ⟨_, hr⟩ | ⟨hd, hr⟩⟩ <;> rw [hr] at hne
  · exact absurd rfl hne
  · exact absurd (by simp [State.dmaOverrun]) hne
  · by_cases hb : (s.ch.get .rx).buffer = null
    · rcases pump_cases s .rx b.ovr with ⟨_, hp⟩ | ⟨hn, _⟩
      · rw [hp, State.latchIf_mem] at hne
        exact absurd rfl hne
      · exact absurd hb hn
    · obtain ⟨hc, hf, _⟩ := inflight_facts h ht hd hb
      refine ⟨hd, borrowed_of_rxStoresTo hb hc hf ?_⟩
      by_contra ha
      exact hne (pump_rx_outside b.ovr h.memoryCanonical hb hc hf ha)

/-- An operation other than an activation writes no memory. -/
theorem exec_mem {i : Instr} {s t : State} (h : exec i s = .next t) :
    t.mem = s.mem ∨ ∃ r, i = .irq r ∧ t = (s.enterIrq r).dispatch (s.status r) := by
  rcases exec_kinds h with ⟨_, rfl⟩ | ⟨d, _, rfl⟩ | ⟨d, _, _, rfl⟩ | ⟨d, _, rfl⟩ | ⟨_, rfl⟩ | ⟨_, rfl⟩ | k |
    ⟨d, st, _, rfl⟩
  · left; rw [configure_writes]
  · exact .inl rfl
  · left; rw [arm_writes]
  · left; rw [State.finish_mem, disableOne_outcome]
  · left; rw [State.finish_mem, disableOne_outcome, disableOne_outcome]
  · exact .inl rfl
  · exact .inr k
  · left
    rcases dmaDone_cases s d st with ⟨_, e⟩ | ⟨_, _, e⟩ <;> rw [e]
    obtain ⟨_, _, _, hm, _⟩ := dmaComplete_spec s d st
    exact hm

/-- An activation writes memory by its receive part only: the transmit part leaves memory and the receive direction. -/
theorem irq_writes {s : State} (h : CoreInvariant s) (ht : TransfersCoherent s) (r : BitVec 4) {a : Word}
    (hne : ((s.enterIrq r).dispatch (s.status r)).mem.read a.toNat ≠ s.mem.read a.toNat) :
    s.params.dma .rx = false ∧ s.borrowed .rx a = true := by
  obtain ⟨fr, hrx, hm, _⟩ := dispatch_midway s r (s.status r).tx
  have hcore := route_core (enterIrq_core h r) .tx (s.status r).tx
  have htrans := route_transfers (enterIrq_core h r) (enterIrq_transfers ht r) .tx (s.status r).tx
  obtain ⟨hd, hb⟩ := route_rx_writes hcore htrans (s.status r).rx (a := a) (by rw [hm]; exact hne)
  rw [fr.params] at hd
  rw [borrowed_congr hrx.ch] at hb
  exact ⟨hd, hb⟩

/-- Settles O53: only an activation writes memory, and of it only the receive part. -/
theorem onlyReceiveWritesMemory : Obligations.OnlyReceiveWritesMemory := by
  unfold Obligations.OnlyReceiveWritesMemory
  intro i s t a h ht he hne
  rcases exec_mem he with hm | ⟨r, hi, rfl⟩
  · rw [hm] at hne
    exact absurd rfl hne
  · exact ⟨⟨r, hi⟩, irq_writes h ht r hne⟩

/-! ### Memory accesses of the other agents (20_memory.md R59, 43_dma.md R126 item 5) -/

section
variable {s : State} {rest : List Stimulus} {a : Word} {v : Byte}

/-- A host store, by whether either direction borrows the byte. -/
theorem step_hostStore (h : s.pending = .hostStore a v :: rest) :
    step s = if s.borrowed .tx a || s.borrowed .rx a then .fault .bufferRace
      else .next ({ s with pending := rest }.storeByte a v) := by
  unfold step; rw [h]; rfl

/-- A host load, by whether a receive borrows the byte. -/
theorem step_hostLoad (h : s.pending = .hostLoad a :: rest) :
    step s = if s.borrowed .rx a then .fault .bufferRace else .next { s with pending := rest } := by
  unfold step; rw [h]; rfl

/-- A store of the DMA engine, by whether a DMA receive borrows the byte. -/
theorem step_engineStore (h : s.pending = .engineStore a v :: rest) :
    step s = if s.params.dma .rx && s.borrowed .rx a then .next ({ s with pending := rest }.storeByte a v)
      else .refused .engineContract := by
  unfold step; rw [h]; rfl

/-- An agent's store writes the one byte it names, in canonical memory. -/
theorem read_storeByte (hw : s.mem.wf = true) (a c : Word) (v : Byte) :
    (s.storeByte a v).mem.read c.toNat = if c = a then v else s.mem.read c.toNat := by
  have h := Memory.read_store hw a.toNat c.toNat v
  simp only [BitVec.toNat_inj] at h
  exact h

end

/-- Settles O8: each access by the borrowed buffers it meets, and the one byte a performed store writes. -/
theorem memoryAgents : Obligations.MemoryAgents := by
  unfold Obligations.MemoryAgents
  intro s rest a v
  have stored (hw : s.mem.wf = true) := read_storeByte (s := { s with pending := rest }) hw a
  refine ⟨fun hp => ?hostStore, fun hp => ?hostLoad, fun hp => ?engineStore⟩
  case hostStore =>
    rw [step_hostStore hp]
    refine ⟨fun hb => if_pos (by simpa using hb), fun htx hrx hw => ⟨_, if_neg ?_, rfl, fun c => stored hw c v⟩⟩
    simp [htx, hrx]
  case hostLoad =>
    rw [step_hostLoad hp]
    exact ⟨fun hb => if_pos hb, fun hb => if_neg (by simp [hb])⟩
  case engineStore =>
    rw [step_engineStore hp]
    refine ⟨fun hd hb hw => ⟨_, if_pos ?_, rfl, fun c => stored hw c v⟩, fun hne => if_neg ?_⟩
    · simp [hd, hb]
    · rcases hne with h | h <;> simp [h]

end Sys2Proof.Machine

/-! ### Decoding and encoding (30_encoding.md R70, R74, R75) -/

namespace Sys2Proof

/-- Every instruction is well formed and is read back from its own word: the round-trip lemmas, constructor by constructor. -/
theorem roundTrip : ∀ i : Instr, Laws.RoundTrip.Statement i
  | .configure => Laws.RoundTrip.configure
  | .registerCallbackTx => Laws.RoundTrip.registerCallbackTx
  | .registerCallbackRx => Laws.RoundTrip.registerCallbackRx
  | .send => Laws.RoundTrip.send
  | .receive => Laws.RoundTrip.receive
  | .disableTx => Laws.RoundTrip.disableTx
  | .disableRx => Laws.RoundTrip.disableRx
  | .disableBoth => Laws.RoundTrip.disableBoth
  | .getConfig => Laws.RoundTrip.getConfig
  | .irq r => Laws.RoundTrip.irq r
  | .dmaDone d st => Laws.RoundTrip.dmaDone d st

theorem Instr.wf_eq_true (i : Instr) : i.wf = true := (roundTrip i).1

@[simp] theorem decode_encode (i : Instr) : decode (encode i) = .ok i := (roundTrip i).2

/-- The decoder accepts no other word for an instruction than its own, port by port. -/
theorem encode_of_decode_ok {a : Arrival} {i : Instr} (h : decode a = .ok i) : encode i = a := by
  cases a with
  | cmd w => exact decodeCmd_ok h
  | evtIrq r =>
    cases h
    rfl
  | evtDma w =>
    cases h
    exact congrArg Arrival.evtDma (dmaFields_append w)

theorem decode_eq_ok_iff {a : Arrival} {i : Instr} : decode a = .ok i ↔ encode i = a := by
  constructor
  · exact encode_of_decode_ok
  · rintro rfl
    exact decode_encode i

/-- Settles O1: decoding inverts encoding, and every instruction is well formed. -/
theorem decodeEncodeAgree : Obligations.DecodeEncodeAgree := by
  unfold Obligations.DecodeEncodeAgree
  exact ⟨fun i _ => decode_encode i, fun _ i h => ⟨i.wf_eq_true, encode_of_decode_ok h⟩⟩

/-- Settles O2: a word decodes to `i` exactly when it is the word of `i`, and the nine commands are the instructions whose word is on `CMD`. -/
theorem commandWords : Obligations.CommandWords := by
  unfold Obligations.CommandWords
  intro w i
  rw [decode_eq_ok_iff]
  constructor
  · intro h
    cases i <;> cases h <;> decide
  · simp only [List.mem_cons, List.not_mem_nil, or_false, Prod.mk.injEq]
    rintro (⟨rfl, rfl⟩ | ⟨rfl, rfl⟩ | ⟨rfl, rfl⟩ | ⟨rfl, rfl⟩ | ⟨rfl, rfl⟩ | ⟨rfl, rfl⟩ | ⟨rfl, rfl⟩ | ⟨rfl, rfl⟩ |
      ⟨rfl, rfl⟩) <;> rfl

/-- Taking bits 31:0 is truncation. -/
theorem dmaStatusField_eq_setWidth (w : BitVec 33) : dmaStatusField w = w.setWidth 32 :=
  (BitVec.setWidth_eq_extractLsb' (by decide)).symm

/-- Settles O4: no event word is rejected, and `st` is the word truncated to 32 bits. -/
theorem eventWords : Obligations.EventWords := by
  unfold Obligations.EventWords
  refine ⟨fun r => ⟨rfl, rfl⟩, fun w => ?_⟩
  rw [← dmaStatusField_eq_setWidth]
  rfl

/-- Settles O5, each word by evaluating the decoder. -/
theorem sampleWordsDecode : Obligations.SampleWordsDecode := by
  unfold Obligations.SampleWordsDecode
  decide

end Sys2Proof

/-! ### The clock calculator (40_clock_divisor.md R91 to R98) -/

namespace Sys2Proof.Machine

/-- The lookup, depth by depth (R94). -/
theorem wssLookup_eq_some_iff {p : Params} {depth : Word} {w : Nat} :
    wssLookup p depth = some w ↔ (depth = 16#32 ∧ w = p.spec.wss16) ∨ (depth = 24#32 ∧ w = p.spec.wss24) ∨
      (depth = 32#32 ∧ w = p.spec.wss32) := by
  constructor
  · intro h
    obtain rfl | rfl | rfl := wssLookup_some h <;> cases h
    · exact .inl ⟨rfl, rfl⟩
    · exact .inr (.inl ⟨rfl, rfl⟩)
    · exact .inr (.inr ⟨rfl, rfl⟩)
  · rintro (⟨rfl, rfl⟩ | ⟨rfl, rfl⟩ | ⟨rfl, rfl⟩) <;> rfl

/-- The equations of R91 and R93 determine every output. -/
theorem eq_clkOutFor {hz bclk : Nat} {c : ClkOut} (hb : c.bclk = bclk) (hd : c.divisor = hz / c.bclk)
    (ha : c.achieved = hz / c.divisor) (hw : c.warn = true ↔ c.achieved ≠ c.bclk) : c = clkOutFor hz bclk := by
  obtain ⟨divisor, bclk', achieved, warn⟩ := c
  dsimp only at hb hd ha hw
  subst hb hd ha
  have warning : warn = clockWarning bclk' (hz / (hz / bclk')) := by
    rw [Bool.eq_iff_iff, hw, clockWarning, decide_eq_true_iff]
  rw [warning, clkOutFor]

/-- `CLKDIV` on a rate that is not 0 and a divisor in range (R91 to R93). -/
theorem clkDivOf_of_inRange {p : Params} {depth rate : Word} (hr : rate ≠ 0#32)
    (hd : divisorInRange (p.clockSourceHz / requestedBclk depth rate) = true) :
    clkDivOf p depth rate = some (clkOutFor p.clockSourceHz (requestedBclk depth rate)) := by
  rw [clkDivOf, if_neg hr, if_pos hd]

/-- `clkDivOf_some` with its converse. -/
theorem clkDivOf_eq_some_iff {p : Params} {depth rate : Word} {c : ClkOut} :
    clkDivOf p depth rate = some c ↔
      rate ≠ 0#32 ∧ c.bclk = requestedBclk depth rate ∧ c.divisor = p.clockSourceHz / c.bclk ∧
      (2 ≤ c.divisor ∧ c.divisor ≤ 1023) ∧ c.achieved = p.clockSourceHz / c.divisor ∧
      (c.warn = true ↔ c.achieved ≠ c.bclk) := by
  refine ⟨clkDivOf_some, fun ⟨hr, hb, hd, hrange, ha, hw⟩ => ?_⟩
  have inRange : divisorInRange (p.clockSourceHz / requestedBclk depth rate) = true := by
    rwa [← hb, ← hd, divisorInRange_iff]
  rw [clkDivOf_of_inRange hr inRange, eq_clkOutFor hb hd ha hw]

/-- The whole calculator succeeds when both its units do (R95). -/
theorem clockCalc_eq_some_iff {p : Params} {depth rate : Word} {w : Nat} {c : ClkOut} :
    clockCalc p depth rate = some (w, c) ↔ wssLookup p depth = some w ∧ clkDivOf p depth rate = some c := by
  unfold clockCalc
  cases wssLookup p depth <;> simp [and_left_comm]

theorem clockCalc_isSome (p : Params) (depth rate : Word) :
    (clockCalc p depth rate).isSome = true ↔
      (wssLookup p depth).isSome = true ∧ (clkDivOf p depth rate).isSome = true := by
  simp only [Option.isSome_iff_exists, Prod.exists, clockCalc_eq_some_iff, exists_and_left, exists_and_right]

/-- A divisor that succeeded had a bit clock to divide by (R96). -/
theorem clkDivOf_bclk_pos {p : Params} {depth rate : Word} {c : ClkOut} (h : clkDivOf p depth rate = some c) :
    0 < c.bclk := by
  obtain ⟨_, _, hd, ⟨hmin, _⟩, _⟩ := clkDivOf_some h
  apply Nat.pos_of_ne_zero
  intro hz
  rw [hd, hz, Nat.div_zero] at hmin
  omega

/-- A bit clock that divides the source clock is achieved exactly (R93). -/
theorem clkDivOf_warn_of_dvd {p : Params} {depth rate : Word} {c : ClkOut} (h : clkDivOf p depth rate = some c)
    (hdvd : c.bclk ∣ p.clockSourceHz) : c.warn = false := by
  obtain ⟨_, _, hd, _, ha, hw⟩ := clkDivOf_some h
  obtain ⟨hclock, _⟩ := (ParamSpec.wf_iff p.spec).mp p.legal
  have exact_bclk : c.achieved = c.bclk := by rw [ha, hd, Nat.div_div_self hdvd hclock.ne']
  rw [← Bool.not_eq_true, hw]
  exact not_not_intro exact_bclk

/-- For a fixed depth a higher rate asks for a higher bit clock. -/
theorem requestedBclk_mono (depth : Word) {rate rate' : Word} (h : rate ≤ rate') :
    requestedBclk depth rate ≤ requestedBclk depth rate' :=
  Nat.mul_le_mul_left _ h

/-- For a fixed depth the divisor does not increase with the rate (R98 item 1). -/
theorem clkDivOf_divisor_antitone {p : Params} {depth rate rate' : Word} {c c' : ClkOut} (hle : rate ≤ rate')
    (h : clkDivOf p depth rate = some c) (h' : clkDivOf p depth rate' = some c') : c'.divisor ≤ c.divisor := by
  obtain ⟨_, hb, hd, _⟩ := clkDivOf_some h
  obtain ⟨_, hb', hd', _⟩ := clkDivOf_some h'
  have hbclk : c.bclk ≤ c'.bclk := by
    rw [hb, hb']
    exact requestedBclk_mono depth hle
  rw [hd, hd']
  exact Nat.div_le_div_left hbclk (clkDivOf_bclk_pos h)

/-- A bit clock is requested exactly when neither operand is 0. -/
theorem requestedBclk_pos_iff {depth rate : Word} : 0 < requestedBclk depth rate ↔ depth ≠ 0#32 ∧ rate ≠ 0#32 := by
  simp [requestedBclk, Nat.pos_iff_ne_zero, BitVec.toNat_eq]

/-- `CLKDIV` succeeds exactly on the rates whose bit clock lies between the two bounds of the source clock (R98 item 2); a rate of 0 fails the lower one. -/
theorem clkDivOf_isSome_iff (p : Params) {depth : Word} (rate : Word) (hdepth : depth ≠ 0#32) :
    (clkDivOf p depth rate).isSome = true ↔
      p.clockSourceHz < 1024 * requestedBclk depth rate ∧ 2 * requestedBclk depth rate ≤ p.clockSourceHz := by
  rw [Option.isSome_iff_ne_none, Ne, clkDivOf_none, not_or, not_not]
  by_cases hr : rate = 0#32
  · simp [hr, requestedBclk]
  · have hb : 0 < requestedBclk depth rate := requestedBclk_pos_iff.mpr ⟨hdepth, hr⟩
    rw [and_iff_right hr, ← divisorInRange_iff, divisorInRange_div hb, and_comm]

/-- Settles O18: the calculator by its two units, the range check in its two forms, and the example of R93. -/
theorem calculatorResult : Obligations.CalculatorResult := by
  unfold Obligations.CalculatorResult
  refine ⟨fun p depth rate w c => ?result, fun hz bclk hb => ?range, fun p depth rate c h hmod => ?exactClock, rfl, rfl, rfl⟩
  case result =>
    rw [clockCalc_eq_some_iff, wssLookup_eq_some_iff, clkDivOf_eq_some_iff, requestedBclk, and_assoc (a := 2 ≤ c.divisor)]
  case range => rw [← divisorInRange_iff, divisorInRange_div hb]
  case exactClock => exact clkDivOf_warn_of_dvd h (Nat.dvd_of_mod_eq_zero hmod)

/-- Settles O19: each law from what `CLKDIV` answers. -/
theorem calculatorLaws : Obligations.CalculatorLaws := by
  unfold Obligations.CalculatorLaws
  refine ⟨fun p depth rate rate' c c' => clkDivOf_divisor_antitone, fun p depth rate hdepth => ?legalRates,
    fun p depth rate c => clkDivOf_achieved_ge, ?function⟩
  case legalRates =>
    have hne : depth ≠ 0#32 := by rcases hdepth with rfl | rfl | rfl <;> decide
    rw [clockCalc_isSome, and_iff_right ((wssLookup_isSome p depth).mpr hdepth), clkDivOf_isSome_iff p rate hne,
      requestedBclk]
  case function =>
    rintro p depth rate _ _ rfl rfl
    rfl

end Sys2Proof.Machine

/-! ### `CONFIGURE` (41_configure.md R100 to R109) -/

namespace Sys2Proof.Machine

@[simp] theorem exec_configure (s : State) : exec .configure s = .next s.configure := rfl

/-- The lookup on a legal depth, as the choice among the three word-select values (R94). -/
theorem wssLookup_of_legal (p : Params) {depth : Word} (h : depth = 16#32 ∨ depth = 24#32 ∨ depth = 32#32) :
    wssLookup p depth = some (if depth = 16#32 then p.spec.wss16
      else if depth = 24#32 then p.spec.wss24 else p.spec.wss32) := by
  obtain rfl | rfl | rfl := h <;> rfl

/-- The lookup fails on every other depth (R94). -/
theorem wssLookup_eq_none_iff {p : Params} {depth : Word} :
    wssLookup p depth = none ↔ depth ≠ 16#32 ∧ depth ≠ 24#32 ∧ depth ≠ 32#32 := by
  rw [← Option.not_isSome_iff_eq_none, wssLookup_isSome, not_or, not_or]

/-! #### The three outcomes of `configure_cases`, each from the condition that leads to it -/

/-- Either argument check fails (R101). -/
theorem configure_of_rejected {s : State} (h : wssLookup s.params s.x1 = none ∨ (s.x2 ≠ 1#32 ∧ s.x2 ≠ 2#32)) :
    s.configure = s.finish .invalidConfig := by
  rcases configure_cases s with ⟨_, e⟩ | ⟨w, hw, hn, _⟩
  · exact e
  · rcases h with hnone | ⟨h1, h2⟩
    · cases hw.symm.trans hnone
    · exact absurd hn (not_or.mpr ⟨h1, h2⟩)

/-- The argument checks pass (R101). -/
theorem configure_of_accepted {s : State} {w : Nat} (hw : wssLookup s.params s.x1 = some w)
    (hn : s.x2 = 1#32 ∨ s.x2 = 2#32) : s.configure = s.configureChecked w := by
  have counted : ¬ (s.x2 ≠ 1#32 ∧ s.x2 ≠ 2#32) := by rwa [← not_or, not_not]
  simp only [State.configure, State.argBitDepth, State.argChannelCount, hw]
  exact if_neg counted

/-- The argument checks pass and the calculator fails (R103). -/
theorem configure_of_divisorFailure {s : State} {w : Nat} (hw : wssLookup s.params s.x1 = some w)
    (hn : s.x2 = 1#32 ∨ s.x2 = 2#32) (hc : clkDivOf s.params s.x1 s.x0 = none) :
    s.configure = s.quiesce.invalidateCfg.finish .invalidConfig := by
  rw [configure_of_accepted hw hn]
  simp only [State.configureChecked, State.argBitDepth, State.argSampleRate, hc]

/-- Every check passes (R102, R104 to R106). -/
theorem configure_of_success {s : State} {w : Nat} {c : ClkOut} (hw : wssLookup s.params s.x1 = some w)
    (hn : s.x2 = 1#32 ∨ s.x2 = 2#32) (hc : clkDivOf s.params s.x1 s.x0 = some c) :
    s.configure = s.quiesce.configureWith w c s.argConfig := by
  rw [configure_of_accepted hw hn]
  simp only [State.configureChecked, State.argBitDepth, State.argSampleRate, hc]

/-- `RES` tells a success: both failures write 1 (R101, R103). -/
theorem configure_success_of_res {s : State} (h : s.configure.res = 0#32) :
    ∃ w c, wssLookup s.params s.x1 = some w ∧ (s.x2 = 1#32 ∨ s.x2 = 2#32) ∧
      clkDivOf s.params s.x1 s.x0 = some c ∧ s.configure = s.quiesce.configureWith w c s.argConfig := by
  rcases configure_cases s with ⟨_, e⟩ | ⟨w, hw, hn, ⟨_, e⟩ | ⟨c, hc, e⟩⟩
  · rw [e] at h; cases h
  · rw [e] at h; cases h
  · exact ⟨w, c, hw, hn, hc, e⟩

/-! #### A successful `CONFIGURE` -/

/-- The events of a success: two clears, the warning when the clock is inexact, the result (R105, R106). -/
def configureEvents (c : ClkOut) : List Event :=
  [.fifoClr .tx, .fifoClr .rx] ++ (if c.warn then [.log (.warnClkInexact c.bclk c.achieved)] else []) ++ [.result .ok]

theorem configureEvents_clkOutFor (hz bclk : Nat) : configureEvents (clkOutFor hz bclk) =
    [.fifoClr .tx, .fifoClr .rx] ++
      (if hz / (hz / bclk) ≠ bclk then [.log (.warnClkInexact bclk (hz / (hz / bclk)))] else []) ++ [.result .ok] := by
  simp only [configureEvents, clkOutFor, clockWarning, decide_eq_true_eq]

section
variable (s : State) (w : Nat) (c : ClkOut) (g : DeviceConfig)

@[simp] theorem configureWith_cfg : (s.quiesce.configureWith w c g).cfg = g := by rw [configureWith_eq]

@[simp] theorem configureWith_res : (s.quiesce.configureWith w c g).res = 0#32 := by rw [configureWith_eq]

@[simp] theorem configureWith_trace : (s.quiesce.configureWith w c g).trace = s.trace ++ configureEvents c := by
  rw [configureWith_eq, configureEvents]

/-- The enables are off already and every other value written is the stored one (R107). -/
theorem configureWith_again : (s.quiesce.configureWith w c g).quiesce.configureWith w c g =
    { s.quiesce.configureWith w c g with
      trace := (s.quiesce.configureWith w c g).trace ++ configureEvents c } := by
  rw [configureWith_eq (s.quiesce.configureWith w c g), configureWith_eq s, configureEvents]
  rfl

end

/-- After a success the operands and the parameters are as before, so the next `CONFIGURE` passes the same checks (R107). -/
theorem configure_again {s : State} (h : s.configure.res = 0#32) :
    ∃ new, s.configure.trace = s.trace ++ new ∧
      s.configure.configure = { s.configure with trace := s.configure.trace ++ new } := by
  obtain ⟨w, c, hw, hn, hc, e⟩ := configure_success_of_res h
  have params : s.configure.params = s.params := s.configure_params
  have x0 : s.configure.x0 = s.x0 := by rw [configure_writes]
  have x1 : s.configure.x1 = s.x1 := by rw [configure_writes]
  have x2 : s.configure.x2 = s.x2 := by rw [configure_writes]
  have args : s.configure.argConfig = s.argConfig := by
    simp only [State.argConfig, State.argSampleRate, State.argBitDepth, State.argChannelCount, x0, x1, x2]
  refine ⟨configureEvents c, by rw [e, configureWith_trace], ?_⟩
  rw [configure_of_success (s := s.configure) (w := w) (c := c) (by rw [params, x1, hw]) (by rwa [x2])
    (by rw [params, x1, x0, hc]), args, e, configureWith_again]

/-- With the interrupt enables off the line is low, whatever the raw flags (60_exceptions.md R172). -/
theorem irqLineFor_of_off {s : State} (h : ∀ d, (s.ctl.get d).fifoIe = false ∧ (s.ctl.get d).ovrIe = false)
    (raw : PerDir StatusBits) : s.irqLineFor raw = false := by
  have low : ∀ (b : StatusBits) (d : Dir), lineOf b (s.ctl.get d) = false := fun b d => by
    obtain ⟨hf, ho⟩ := h d
    simp [lineOf, hf, ho]
  rw [State.irqLineFor, Bool.or_eq_false_iff]
  exact ⟨low raw.tx .tx, low raw.rx .rx⟩

/-- Settles O20: the calculator's outputs written out in the record of `configureWith_eq`. -/
theorem configureSucceeds : Obligations.ConfigureSucceeds := by
  unfold Obligations.ConfigureSucceeds
  intro s t bclk divisor achieved hdepth hcount hrate hb hdiv hmin hmax hach ht
  subst hb hdiv hach
  have clock : clkDivOf s.params s.x1 s.x0 = some (clkOutFor s.params.clockSourceHz (requestedBclk s.x1 s.x0)) :=
    clkDivOf_of_inRange hrate ((divisorInRange_iff _).mpr ⟨hmin, hmax⟩)
  have next : s.configure = t := by
    rw [configure_of_success (wssLookup_of_legal s.params hdepth) hcount clock, configureWith_eq,
      ← configureEvents, configureEvents_clkOutFor, ht]
    simp only [List.append_assoc]
    rfl
  refine ⟨by rw [exec_configure, next], irqLineFor_of_off fun d => ?_⟩
  subst ht
  cases d <;> exact ⟨rfl, rfl⟩

/-- Settles O21: either check that fails leads to `configure_of_rejected`. -/
theorem configureRejectsArguments : Obligations.ConfigureRejectsArguments := by
  unfold Obligations.ConfigureRejectsArguments
  intro s h
  rw [exec_configure, configure_of_rejected (h.imp_left wssLookup_eq_none_iff.mpr)]
  rfl

/-- Settles O22: the calculator fails after the quiesce, with the draw of `cfg` named. -/
theorem configureDivisorFailure : Obligations.ConfigureDivisorFailure := by
  unfold Obligations.ConfigureDivisorFailure
  intro s divisor hdepth hcount hdiv hfail
  subst hdiv
  have clock : clkDivOf s.params s.x1 s.x0 = none := by
    rw [clkDivOf_none, requestedBclk, not_and_or, Nat.not_le, Nat.not_le]
    exact hfail
  rw [exec_configure, configure_of_divisorFailure (wssLookup_of_legal s.params hdepth) hcount clock]
  rfl

/-- Settles O23: the events of the second run are those of the first by `configure_again`. -/
theorem configureIdempotent : Obligations.ConfigureIdempotent := by
  unfold Obligations.ConfigureIdempotent
  intro s t new he hres htrace
  obtain rfl : s.configure = t := Host.Outcome.next.inj he
  obtain ⟨again, htrace', hagain⟩ := configure_again hres
  obtain rfl : new = again := List.append_cancel_left (htrace.symm.trans htrace')
  rw [exec_configure, hagain]

/-- Settles O24: `GET_CONFIG` answers the `cfg` that the success has stored. -/
theorem configureThenGetConfig : Obligations.ConfigureThenGetConfig := by
  unfold Obligations.ConfigureThenGetConfig
  intro s hdepth hcount hrate hmin hmax
  have clock := clkDivOf_of_inRange hrate ((divisorInRange_iff _).mpr ⟨hmin, hmax⟩)
  have success := configure_of_success (wssLookup_of_legal s.params hdepth) hcount clock
  have hcfg : s.configure.cfg = s.argConfig := by rw [success, configureWith_cfg]
  have hres : s.configure.res = 0#32 := by rw [success, configureWith_res]
  refine ⟨s.configure, s.configure.getConfig, rfl, rfl, hres, rfl, ?_, ?_, ?_⟩ <;>
    simp [State.getConfig, hcfg, State.argConfig, State.argSampleRate, State.argBitDepth, State.argChannelCount]

end Sys2Proof.Machine

/-! ### `SEND` and `RECEIVE` (42_arm.md R110 to R118) -/

namespace Sys2Proof.Machine

section
variable {s : State} {d : Dir}

/-! #### The preconditions of R116 -/

@[simp] theorem exec_armInstr (s : State) (d : Dir) : exec (armInstr d) s = armCommand d s := by cases d <;> rfl

/-- An arm before a valid configuration (93 U1). -/
theorem armCommand_unconfigured (hv : s.cfgValid = false) : armCommand d s = .refused .unconfigured := if_pos hv

/-- An arm before a registered callback (93 U2). -/
theorem armCommand_noCallback (hv : s.cfgValid = true) (hc : s.cb.get d = 0#32) :
    armCommand d s = .refused .noCallback := by
  rw [armCommand, if_neg (by simp [hv]), if_pos hc]

/-- A prepared arm runs `ARM(d)`. -/
theorem armCommand_prepared (hv : s.cfgValid = true) (hc : s.cb.get d ≠ 0#32) :
    armCommand d s = .next (s.arm d) := by
  rw [armCommand, if_neg (by simp [hv]), if_neg hc]

/-- Every other operation answers a next state in every state (60_exceptions.md R184). -/
theorem exec_next_of_not_arm {i : Instr} (hi : ∀ d, i ≠ armInstr d) (s : State) : ∃ t, exec i s = .next t := by
  cases i with
  | send => exact absurd rfl (hi .tx)
  | receive => exact absurd rfl (hi .rx)
  | _ => exact ⟨_, rfl⟩

/-! #### The courses of `arm_cases`, each from the condition that leads to it (R110) -/

/-- The first check: a null buffer or a zero length. -/
theorem arm_of_emptyRequest (h : s.x0 = null ∨ s.x1 = 0#32) : s.arm d = s.finish .invalidArgument := if_pos h

/-- Past the first check, what is left of `ARM(d)`. -/
theorem arm_of_nonemptyRequest (hx : s.x0 ≠ null) (hl : s.x1 ≠ 0#32) :
    s.arm d =
      if (s.ch.get d).buffer ≠ null then s.finish .inProgress
      else if s.x1.toNat % s.frameBytes ≠ 0 then s.finish .invalidArgument
      else s.armAccepted d :=
  if_neg (not_or.mpr ⟨hx, hl⟩)

/-- The second check: a transfer in flight on the direction. -/
theorem arm_of_busy (hx : s.x0 ≠ null) (hl : s.x1 ≠ 0#32) (hb : (s.ch.get d).buffer ≠ null) :
    s.arm d = s.finish .inProgress := by
  rw [arm_of_nonemptyRequest hx hl, if_pos hb]

/-- The third check: a length that is no whole number of frames. -/
theorem arm_of_partialFrame (hx : s.x0 ≠ null) (hl : s.x1 ≠ 0#32) (hb : (s.ch.get d).buffer = null)
    (hm : s.x1.toNat % s.frameBytes ≠ 0) : s.arm d = s.finish .invalidArgument := by
  rw [arm_of_nonemptyRequest hx hl, if_neg (not_not_intro hb), if_pos hm]

/-- Every check passes. -/
theorem arm_of_accepted (hx : s.x0 ≠ null) (hl : s.x1 ≠ 0#32) (hb : (s.ch.get d).buffer = null)
    (hm : s.x1.toNat % s.frameBytes = 0) : s.arm d = s.armAccepted d := by
  rw [arm_of_nonemptyRequest hx hl, if_neg (not_not_intro hb), if_neg (not_not_intro hm)]

/-- An accepted arm of a pump-mode direction (R111). -/
theorem armAccepted_of_pump (hd : s.params.dma d = false) :
    s.armAccepted d = ((s.borrow d).armPump d).finish .ok := by
  rw [State.armAccepted, if_neg (by simp [hd])]

end

/-- The controls of `armPump_eq` as a choice between `REARM` (R113) and `FRESH_START` (R112). -/
theorem armedCtl_eq (c : PortCtl) (running : Bool) :
    { c with
      chanEn := c.chanEn || !running
      blkEn := c.blkEn || !running
      fifoIe := true, ovrIe := true } =
    if running = true then { c with fifoIe := true, ovrIe := true }
      else { c with chanEn := true, blkEn := true, fifoIe := true, ovrIe := true } := by
  cases running <;> simp

/-- Settles O30: an operation is an arm, with its two preconditions, or one that always answers. -/
theorem onlyUnpreparedArmsStop : Obligations.OnlyUnpreparedArmsStop := by
  unfold Obligations.OnlyUnpreparedArmsStop
  refine ⟨fun s d hv => ?unconfigured, fun s d hv hc => ?noCallback, fun s i prepared => ?answers⟩
  case unconfigured => rw [exec_armInstr, armCommand_unconfigured hv]
  case noCallback => rw [exec_armInstr, armCommand_noCallback hv hc]
  case answers =>
    by_cases hi : ∃ d, i = armInstr d
    · obtain ⟨d, rfl⟩ := hi
      obtain ⟨hv, hc⟩ := prepared d rfl
      exact ⟨s.arm d, by rw [exec_armInstr, armCommand_prepared hv hc]⟩
    · exact exec_next_of_not_arm (not_exists.mp hi) s

/-- Settles O31: each rejection ends the command by `finish`, which writes `RES` and the trace only. -/
theorem armRejections : Obligations.ArmRejections := by
  unfold Obligations.ArmRejections
  intro s d hv hc
  rw [exec_armInstr, armCommand_prepared hv hc]
  refine ⟨fun h => ?emptyRequest, fun hx hl hb => ?busy, fun hx hl hb hm => ?partialFrame⟩
  case emptyRequest => rw [arm_of_emptyRequest h]; rfl
  case busy => rw [arm_of_busy hx hl hb]; rfl
  case partialFrame => rw [arm_of_partialFrame hx hl hb hm]; rfl

/-- Settles O32: the record of `armPump_eq`, its controls as the choice that R112 and R113 make. -/
theorem pumpArmCompletes : Obligations.PumpArmCompletes := by
  unfold Obligations.PumpArmCompletes
  intro s d hv hc hx hl hb hm hd
  rw [exec_armInstr, armCommand_prepared hv hc, arm_of_accepted hx hl hb hm, armAccepted_of_pump hd, armPump_eq,
    armedCtl_eq, State.bps]

end Sys2Proof.Machine

/-! ### DMA-mode transfers (43_dma.md R120 to R124) -/

namespace Sys2Proof.Machine

/-! #### `ARM_DMA`, by the engine's answers (R120, R121) -/

section
variable {s : State} {d : Dir}

theorem armAccepted_of_dma (hd : s.params.dma d = true) : s.armAccepted d = (dmaPrepared s d).armDmaConfigure d :=
  if_pos hd

/-- Line 2: the configure request fails. -/
theorem armAccepted_of_configureFailed (hd : s.params.dma d = true) (h0 : s.dmaAnswerAt 0 ≠ 0#32) :
    s.armAccepted d = (dmaConfigured s d).rollback d (s.dmaAnswerAt 0) := by
  rw [← dmaPrepared_answer s d] at h0 ⊢
  exact (armAccepted_of_dma hd).trans (if_pos h0)

/-- Line 2: the configure request succeeds, and the start request follows. -/
theorem armAccepted_of_configured (hd : s.params.dma d = true) (h0 : s.dmaAnswerAt 0 = 0#32) :
    s.armAccepted d = (dmaConfigured s d).armDmaStart d := by
  rw [← dmaPrepared_answer s d] at h0
  exact (armAccepted_of_dma hd).trans (if_neg (not_not_intro h0))

/-- Line 3: the start request fails. -/
theorem armAccepted_of_startFailed (hd : s.params.dma d = true) (h0 : s.dmaAnswerAt 0 = 0#32)
    (h1 : s.dmaAnswerAt 1 ≠ 0#32) : s.armAccepted d = (dmaStarted s d).rollback d (s.dmaAnswerAt 1) := by
  rw [← dmaConfigured_answer s d] at h1 ⊢
  exact (armAccepted_of_configured hd h0).trans (if_pos h1)

/-- Line 4: both requests succeed. -/
theorem armAccepted_of_started (hd : s.params.dma d = true) (h0 : s.dmaAnswerAt 0 = 0#32)
    (h1 : s.dmaAnswerAt 1 = 0#32) : s.armAccepted d = ((dmaStarted s d).startDmaChannel d).finish .ok := by
  rw [← dmaConfigured_answer s d] at h1
  exact (armAccepted_of_configured hd h0).trans (if_neg (not_not_intro h1))

end

/-- Settles O33: the two answers are 0, and `startedOk_eq` is the record. -/
theorem dmaArmCompletes : Obligations.DmaArmCompletes := by
  unfold Obligations.DmaArmCompletes
  intro s d hv hc hx hl hb hm hd h0 h1
  rw [exec_armInstr, armCommand_prepared hv hc, arm_of_accepted hx hl hb hm, armAccepted_of_started hd h0 h1,
    startedOk_eq, h0, h1]

/-- Settles O34: the first non-zero answer leads to the rollback, from the state its request left. -/
theorem dmaArmRollsBack : Obligations.DmaArmRollsBack := by
  unfold Obligations.DmaArmRollsBack
  intro s d hv hc hx hl hb hm hd
  rw [exec_armInstr, armCommand_prepared hv hc, arm_of_accepted hx hl hb hm]
  refine ⟨fun h0 => ?configureFails, fun h0 h1 => ?startFails⟩
  case configureFails => rw [armAccepted_of_configureFailed hd h0, rollbackConfigured_eq]
  case startFails => rw [armAccepted_of_startFailed hd h0 h1, rollbackStarted_eq, h0]

/-! #### `DMA_DONE` (R123, R124) -/

section
variable {s : State} {d : Dir}

@[simp] theorem exec_dmaDone (d : Dir) (st : Word) (s : State) : exec (.dmaDone d st) s = .next (s.dmaDone d st) := rfl

theorem dmaDone_of_ignored (h : s.params.dma d = false ∨ (s.ch.get d).buffer = null) (st : Word) :
    s.dmaDone d st = s := if_pos h

theorem dmaDone_of_flight (hd : s.params.dma d = true) (hb : (s.ch.get d).buffer ≠ null) (st : Word) :
    s.dmaDone d st = s.dmaComplete d st :=
  if_neg (not_or.mpr ⟨by simp [hd], hb⟩)

end

/-- Line 4 of `DMA_DONE` as the events it appends. -/
theorem logDmaStatus_eq (s : State) (d : Dir) (st : Word) :
    s.logDmaStatus d st =
      { s with trace := s.trace ++ if st = 0#32 then [] else [.log (.errDmaStatus d st)] } := by
  unfold State.logDmaStatus
  by_cases h : st = 0#32 <;> simp [h, State.emit]

/-- Settles O48: the completion, with what it logs written out. -/
theorem dmaDoneCompletes : Obligations.DmaDoneCompletes := by
  unfold Obligations.DmaDoneCompletes
  refine fun s st => ⟨fun hd hb => ?tx, fun hd hb => ?rx⟩ <;>
    rw [exec_dmaDone, dmaDone_of_flight hd hb, State.dmaComplete, logDmaStatus_eq] <;> rfl

/-- Settles O49: the first line of `DMA_DONE` ends it. -/
theorem dmaDoneIgnored : Obligations.DmaDoneIgnored := by
  unfold Obligations.DmaDoneIgnored
  intro s d st h
  rw [exec_dmaDone, dmaDone_of_ignored h]

/-! #### An aborted transfer (R124, R127; 46_disable.md R163) -/

section
variable {s t : State} {d : Dir}

@[simp] theorem exec_irq (r : BitVec 4) (s : State) :
    exec (.irq r) s = .next ((s.enterIrq r).dispatch (s.status r)) := rfl

theorem otherDir_ne (d : Dir) : otherDir d ≠ d := by cases d <;> decide

/-- A `DISABLE` selects a direction alone or together with the other one. -/
theorem disablesDir_iff {i : Instr} : disablesDir i d = true ↔ i = disableInstr d ∨ i = .disableBoth := by
  cases d <;> simp [disablesDir, disableInstr]

/-- Every `DISABLE` that selects a direction leaves it idle (46_disable.md R161, R163). -/
theorem phase_idle_of_disables {i : Instr} (hi : disablesDir i d = true) (he : exec i s = .next t) :
    t.phase d = .idle := by
  rcases disablesDir_iff.mp hi with rfl | rfl
  · obtain rfl : (s.disableOne d).finish .ok = t := by cases d <;> exact Host.Outcome.next.inj he
    exact disableOne_phase_own s d
  · obtain rfl : ((s.disableOne .tx).disableOne .rx).finish .ok = t := Host.Outcome.next.inj he
    exact disableBoth_phase s d

/-- The dispatcher does nothing for a direction whose channel is not running (45_dispatch.md R152). -/
theorem route_of_stopped (hr : (s.ch.get d).running = false) (b : StatusBits) : s.route d b = s := by
  rcases route_cases s d b with ⟨_, h⟩ | ⟨_, hrun, _⟩
  · exact h
  · exact absurd hrun (by simp [hr])

/-- With one direction stopped, the dispatcher is its part for the opposite direction. -/
theorem dispatch_of_stopped (hr : (s.ch.get d).running = false) (st : PerDir StatusBits) :
    s.dispatch st = s.route (otherDir d) (st.get (otherDir d)) := by
  unfold State.dispatch
  cases d
  case tx => rw [route_of_stopped hr]; rfl
  case rx => exact route_of_stopped (((route_frame s .tx st.tx).running .rx).trans hr) st.rx

end

/-- Settles O37: a disabled direction is idle, so a completion finds no buffer and the dispatcher no running channel. -/
theorem abortedTransferGetsNoCallback : Obligations.AbortedTransferGetsNoCallback := by
  unfold Obligations.AbortedTransferGetsNoCallback
  intro i s t d hi he
  obtain ⟨hb, hr⟩ := phase_idle_iff.mp (phase_idle_of_disables hi he)
  refine ⟨hb, fun st => ?lateCompletion, fun r u hu => ?activation⟩
  case lateCompletion => rw [exec_dmaDone, dmaDone_of_ignored (.inr hb)]
  case activation =>
    rw [exec_irq, dispatch_of_stopped (s := t.enterIrq r) hr] at hu
    cases hu
    obtain ⟨new, htrace, hnew⟩ := route_appends (t.enterIrq r) (otherDir d) ((t.status r).get (otherDir d))
    refine ⟨(route_dirFrame (t.enterIrq r) (otherDir_ne d).symm _).ch, fun e hmem => ?_⟩
    rw [htrace] at hmem
    exact hnew e (by simpa using hmem) d (otherDir_ne d).symm

end Sys2Proof.Machine

/-! ### One activation of the pump (44_pump.md R130 to R142) -/

namespace Sys2Proof.Machine

section
variable {s : State} {d : Dir}

/-- The dispatcher does nothing for a direction with neither bit up (45_dispatch.md R150). -/
theorem route_of_quiet {b : StatusBits} (hrdy : b.rdy = false) (hovr : b.ovr = false) : s.route d b = s := by
  rcases route_cases s d b with ⟨_, h⟩ | ⟨hup, _⟩
  · exact h
  · simp [hrdy, hovr] at hup

/-- With the bits of one direction down, the dispatcher is its part for the opposite direction. -/
theorem dispatch_of_quiet {st : PerDir StatusBits} (hrdy : (st.get (otherDir d)).rdy = false)
    (hovr : (st.get (otherDir d)).ovr = false) : s.dispatch st = s.route d (st.get d) := by
  unfold State.dispatch
  cases d
  case tx => exact route_of_quiet hrdy hovr
  case rx => rw [route_of_quiet (b := st.tx) hrdy hovr]; rfl

/-- With no transfer in flight the pump latches an overrun and no more (44_pump.md R132). -/
theorem pump_of_no_flight (ovr : Bool) (hb : (s.ch.get d).buffer = null) : s.pump d ovr = s.latchIf d ovr := by
  rcases pump_cases s d ovr with ⟨_, h⟩ | ⟨hn, _⟩
  · exact h
  · exact absurd hb hn

end

/-- Settles O41: the activation is one pump invocation that ends after its first line. -/
theorem overrunLatchedWithoutTransfer : Obligations.OverrunLatchedWithoutTransfer := by
  unfold Obligations.OverrunLatchedWithoutTransfer
  intro r s d hd hrun hb hovr hrdy' hovr'
  rw [exec_irq, dispatch_of_quiet hrdy' hovr', route_pump (s := s.enterIrq r) hrun hd (.inr hovr), hovr,
    pump_of_no_flight (s := s.enterIrq r) true hb]
  rfl

/-! #### A pump-mode transfer in flight -/

/-- A pair that agrees on receive is the other one with its transmit element replaced. -/
theorem eq_with_tx_of_get_rx {α : Type} {p q : PerDir α} (h : q.get .rx = p.get .rx) : q = { p with tx := q.tx } :=
  congrArg (PerDir.mk q.tx) h

/-- The state with other transmit elements and events appended: what the receive part of an activation starts from. -/
def State.withTx (s : State) (c : Channel) (p : PortCtl) (f : StatusBits) (new : List Event) : State :=
  { s with
    ch := { s.ch with tx := c }, ctl := { s.ctl with tx := p }, raw := { s.raw with tx := f }
    trace := s.trace ++ new }

/-- The dispatcher's transmit part writes transmit elements and appends events, none of them about receive. -/
theorem route_tx_writes (s : State) (b : StatusBits) :
    ∃ c p f new, s.route .tx b = s.withTx c p f new ∧ ∀ e, e ∈ new → e.isOf .rx = false := by
  obtain ⟨new, htrace, hnew⟩ := route_appends s .tx b
  obtain ⟨hentries, hdraws⟩ := route_tx_env s b
  have hmem := route_tx_mem s b
  have fr := route_frame s .tx b
  have rx : DirFrame .rx s (s.route .tx b) := route_dirFrame s (by decide) b
  have hch := eq_with_tx_of_get_rx rx.ch
  have hctl := eq_with_tx_of_get_rx rx.ctl
  have hraw := eq_with_tx_of_get_rx rx.raw
  refine ⟨(s.route .tx b).ch.tx, (s.route .tx b).ctl.tx, (s.route .tx b).raw.tx, new, ?_,
    fun e he => hnew e he .rx (by decide)⟩
  generalize s.route .tx b = t at *
  cases t
  simp only [State.withTx, State.mk.injEq]
  exact ⟨fr.params, fr.x0, fr.x1, fr.x2, fr.x3, fr.x4, fr.x5, fr.cmd, fr.res, fr.cfg, fr.cfgValid, fr.clkDiv, fr.wss,
    fr.clkEn, fr.achievedBclk, fr.clkWarn, hch, fr.cb, hctl, hraw, hmem, htrace, fr.pending, fr.dmaAnswers, hentries,
    hdraws⟩

section
variable {s : State} {d : Dir} {st : PerDir StatusBits}

/-- With a pump-mode receive in flight and a bit up, an activation ends with one pump invocation, from a state in which everything receive reads is as at entry. -/
theorem dispatch_rx_pump (hi : CoreInvariant s) (ht : TransfersCoherent s) (hd : s.params.dma .rx = false)
    (hb : (s.ch.get .rx).buffer ≠ null) (hup : st.rx.rdy = true ∨ st.rx.ovr = true) :
    ∃ c p f before, s.dispatch st = (s.withTx c p f before).pump .rx st.rx.ovr ∧
      (∀ e, e ∈ before → e.isOf .rx = false) ∧ (s.withTx c p f before).mem.wf = true ∧
      TransferCoherent (s.withTx c p f before) .rx ∧ LegalFormat (s.withTx c p f before) := by
  have hi' := route_core hi .tx st.tx
  have ht' := route_transfers hi ht .tx st.tx
  obtain ⟨c, p, f, before, hmid, hbefore⟩ := route_tx_writes s st.tx
  rw [hmid] at hi' ht'
  have hb' : ((s.withTx c p f before).ch.get .rx).buffer ≠ null := hb
  obtain ⟨hc, hf, hrun⟩ := inflight_facts hi' ht' hd hb'
  refine ⟨c, p, f, before, ?_, hbefore, hi'.memoryCanonical, hc, hf⟩
  unfold State.dispatch
  rw [hmid, route_pump hrun hd hup]

/-- After an activation a direction with a pump-mode transfer in flight and a bit up is as one pump invocation leaves it. -/
theorem dispatch_pumps (hi : CoreInvariant s) (ht : TransfersCoherent s) (hd : s.params.dma d = false)
    (hb : (s.ch.get d).buffer ≠ null) (hup : (st.get d).rdy = true ∨ (st.get d).ovr = true) :
    (s.dispatch st).ch.get d = (s.pump d (st.get d).ovr).ch.get d ∧
    (s.dispatch st).ctl.get d = (s.pump d (st.get d).ovr).ctl.get d := by
  obtain ⟨hc, hf, hrun⟩ := inflight_facts hi ht hd hb
  cases d
  case tx =>
    have after := dispatch_tx s st
    rw [route_pump (b := st.tx) hrun hd hup] at after
    exact ⟨after.ch, after.ctl⟩
  case rx =>
    obtain ⟨c, p, f, before, hpump, _, _, hc', hf'⟩ := dispatch_rx_pump hi ht hd hb hup
    have hb' : ((s.withTx c p f before).ch.get .rx).buffer ≠ null := hb
    rw [hpump]
    exact ⟨(pump_ch _ hb' hc' hf').trans (pump_ch _ hb hc hf).symm,
      (pump_ctl _ hb' hc' hf').trans (pump_ctl _ hb hc hf).symm⟩

end

/-- Settles O43: the transmit part is one pump invocation, and what follows it is the receive part. -/
theorem transmitActivation : Obligations.TransmitActivation := by
  unfold Obligations.TransmitActivation
  intro r s b n done hi ht hd hb hbits hup hn hdone
  subst hbits hn hdone
  have hi' := enterIrq_core hi r
  have ht' := enterIrq_transfers ht r
  have hb' : ((s.enterIrq r).ch.get .tx).buffer ≠ null := hb
  obtain ⟨hc, hf, hrun⟩ := inflight_facts hi' ht' hd hb'
  obtain ⟨hch, hctl⟩ := dispatch_pumps hi' ht' hd hb' (st := s.status r) hup
  obtain ⟨rest, htrace, hrest⟩ := route_appends ((s.enterIrq r).route .tx (s.status r).tx) .rx (s.status r).rx
  rw [route_pump hrun hd hup, pump_tx_trace _ hb' hc hf, ← route_pump hrun hd hup] at htrace
  exact ⟨_, rest, exec_irq r s, htrace, fun e he => hrest e he .tx (by decide),
    hch.trans (pump_ch _ hb' hc hf), hctl.trans (pump_ctl _ hb' hc hf)⟩

/-- Settles O44: the receive part is one pump invocation, and what precedes it is the transmit part. -/
theorem receiveActivation : Obligations.ReceiveActivation := by
  unfold Obligations.ReceiveActivation
  intro r s b n done hi ht hd hb hbits hup hn hdone
  subst hbits hn hdone
  have hi' := enterIrq_core hi r
  have ht' := enterIrq_transfers ht r
  have hb' : ((s.enterIrq r).ch.get .rx).buffer ≠ null := hb
  obtain ⟨hc, hf, _⟩ := inflight_facts hi' ht' hd hb'
  obtain ⟨hch, hctl⟩ := dispatch_pumps hi' ht' hd hb' (st := s.status r) hup
  obtain ⟨c, p, f, before, hpump, hbefore, hwm, hcm, hfm⟩ := dispatch_rx_pump hi' ht' hd hb' (st := s.status r) hup
  have hbm : (((s.enterIrq r).withTx c p f before).ch.get .rx).buffer ≠ null := hb
  refine ⟨_, before, exec_irq r s, ?trace, hbefore, ?samples, ?outside, ?entries,
    hch.trans (pump_ch _ hb' hc hf), hctl.trans (pump_ctl _ hb' hc hf)⟩ <;> rw [hpump]
  case trace => exact pump_rx_trace _ hbm hcm hfm
  case samples => exact fun k q hk hq => pump_rx_samples _ hwm hbm hcm hfm hk hq
  case outside => exact fun a ha => pump_rx_outside _ hwm hbm hcm hfm ha
  case entries => exact pump_rx_entries _ hbm hcm hfm

end Sys2Proof.Machine

/-! ### Callbacks (44_pump.md R137, 43_dma.md R123) -/

namespace Sys2Proof.Machine

section
variable (s : State)

theorem finish_nocb (c : ResultCode) : Adds NoCb s (s.finish c) :=
  ⟨[.result c], rfl, by simp [NoCb, Event.isCbOf]⟩

theorem configure_nocb : Adds NoCb s s.configure := by
  rcases configure_cases s with ⟨_, h⟩ | ⟨w, _, _, ⟨_, h⟩ | ⟨c, _, h⟩⟩ <;> rw [h]
  · exact finish_nocb s _
  · exact ⟨[.result .invalidConfig], rfl, by simp [NoCb, Event.isCbOf]⟩
  · refine ⟨configureEvents c, configureWith_trace s w c _, ?_⟩
    unfold configureEvents
    cases c.warn <;> simp [NoCb, Event.isCbOf]

/-- The cache action before the engine is asked is no callback. -/
theorem armCleanEvents_nocb (d : Dir) : ∀ e, e ∈ s.armCleanEvents d → NoCb e := by
  cases d <;> simp [State.armCleanEvents, NoCb, Event.isCbOf]

theorem arm_nocb (d : Dir) : Adds NoCb s (s.arm d) := by
  have clean := armCleanEvents_nocb s d
  rcases arm_outcomes s d with ⟨_, h⟩ | ⟨_, _, _, h⟩ | ⟨_, _, _, _, h⟩ |
    ⟨_, _, _, _, ⟨_, h⟩ | ⟨_, ⟨_, h⟩ | ⟨_, _, h⟩ | ⟨_, _, h⟩⟩⟩ <;> rw [h]
  · exact finish_nocb s _
  · exact finish_nocb s _
  · exact finish_nocb s _
  · rw [armPump_eq]
    exact ⟨_, rfl, by simp [NoCb, Event.isCbOf]⟩
  · rw [rollbackConfigured_eq]
    exact ⟨_, List.append_assoc _ _ _, List.forall_mem_append.mpr ⟨clean, by simp [NoCb, Event.isCbOf]⟩⟩
  · rw [rollbackStarted_eq]
    exact ⟨_, List.append_assoc _ _ _, List.forall_mem_append.mpr ⟨clean, by simp [NoCb, Event.isCbOf]⟩⟩
  · rw [startedOk_eq]
    exact ⟨_, List.append_assoc _ _ _, List.forall_mem_append.mpr ⟨clean, by simp [NoCb, Event.isCbOf]⟩⟩

theorem disableOne_nocb (d : Dir) : Adds NoCb s (s.disableOne d) := by
  rw [disableOne_eq]
  refine ⟨_, rfl, ?_⟩
  unfold stopEvents
  split
  · split <;> simp [NoCb, Event.isCbOf]
  · simp [NoCb, Event.isCbOf]

end

/-- A command calls nobody back; an event operation calls back for exactly the transfers it ends. -/
theorem exec_callbacks {i : Instr} {s t : State} (h : exec i s = .next t) :
    (isCommand i = true ∧ Adds NoCb s t) ∨ (isCommand i = false ∧ ∀ d, CbRule s t d) := by
  rcases exec_kinds h with ⟨rfl, rfl⟩ | ⟨d, rfl, rfl⟩ | ⟨d, rfl, _, rfl⟩ | ⟨d, rfl, rfl⟩ | ⟨rfl, rfl⟩ | ⟨rfl, rfl⟩ |
    ⟨r, rfl, rfl⟩ | ⟨d, st, rfl, rfl⟩
  · exact .inl ⟨rfl, configure_nocb s⟩
  · exact .inl ⟨by cases d <;> rfl, finish_nocb (s.setCb d s.argCallback) .ok⟩
  · exact .inl ⟨by cases d <;> rfl, arm_nocb s d⟩
  · exact .inl ⟨by cases d <;> rfl, (disableOne_nocb s d).trans (finish_nocb _ _)⟩
  · exact .inl ⟨rfl, ((disableOne_nocb s .tx).trans (disableOne_nocb _ .rx)).trans (finish_nocb _ _)⟩
  · exact .inl ⟨rfl, _, rfl, by simp [NoCb, Event.isCbOf]⟩
  · exact .inr ⟨rfl, dispatch_cb s r⟩
  · exact .inr ⟨rfl, fun e => dmaDone_cb s e d st⟩

/-- Settles O56: the callbacks among the appended events, by the kind of operation. -/
theorem callbackMarksCompletion : Obligations.CallbackMarksCompletion := by
  unfold Obligations.CallbackMarksCompletion
  intro i s t d h
  rcases exec_callbacks h with ⟨hi, new, htrace, hnew⟩ | ⟨hi, hrule⟩
  case inl =>
    refine ⟨.ok, ?_⟩
    rw [htrace, List.drop_left, if_neg (by simp [hi]), List.filter_eq_nil_iff]
    exact fun e he => by simp [hnew e he d]
  case inr =>
    obtain ⟨new, htrace, st, hcb⟩ := hrule d
    refine ⟨st, ?_⟩
    rw [htrace, List.drop_left, hcb]
    simp only [hi, true_and]

end Sys2Proof.Machine

/-! ### A run of activations (44_pump.md R141) -/

namespace Sys2Proof.Machine

/-- The state an activation leaves. -/
def activate (r : BitVec 4) (s : State) : State := (s.enterIrq r).dispatch (s.status r)

/-- Every activation answers, so a run of them is the iterate of one (45_dispatch.md R154). -/
theorem irqTimes_eq_iterate (r : BitVec 4) : ∀ (k : Nat) (s : State), irqTimes r k s = some ((activate r)^[k] s)
  | 0, _ => rfl
  | k + 1, s => irqTimes_eq_iterate r k (activate r s)

/-- The status bits of a direction depend on its own enables alone (60_exceptions.md R171). -/
theorem status_get (s : State) (r : BitVec 4) (d : Dir) : (s.status r).get d =
    if s.params.spec.statusMasked then maskedBits ((rawOfWord r).get d) (s.ctl.get d) else (rawOfWord r).get d := by
  unfold State.status
  split <;> cases d <;> rfl

/-- The FIFO-ready bit of a direction depends on its FIFO interrupt enable alone. -/
theorem status_rdy_congr {s t : State} {d : Dir} (hp : t.params = s.params)
    (hie : (t.ctl.get d).fifoIe = (s.ctl.get d).fifoIe) (r : BitVec 4) :
    ((t.status r).get d).rdy = ((s.status r).get d).rdy := by
  rw [status_get, status_get, hp]
  split
  · simp only [maskedBits, hie]
  · rfl

theorem framesLeft_congr {s t : State} {d : Dir} (hc : t.cfg = s.cfg) (hch : t.ch.get d = s.ch.get d) :
    t.framesLeft d = s.framesLeft d := by
  unfold State.framesLeft
  rw [nch_congr hc, hch]

/-- A trigger level is at least 1 (00_scope.md R9). -/
theorem trig_pos (p : Params) (d : Dir) : 0 < p.trig d := by
  obtain ⟨_, htx, hrx, _⟩ := (ParamSpec.wf_iff p.spec).mp p.legal
  cases d
  · exact htx
  · exact hrx

/-- A pump-mode transfer in flight whose FIFO is ready: what an activation that does not end the transfer keeps. -/
structure ReadyFlight (r : BitVec 4) (d : Dir) (s : State) : Prop where
  core : CoreInvariant s
  coherent : TransfersCoherent s
  pumpMode : s.params.dma d = false
  inFlight : (s.ch.get d).buffer ≠ null
  ready : ((s.status r).get d).rdy = true

section
variable {r : BitVec 4} {d : Dir} {s : State}

/-- An activation is one pump invocation on the transfer, which is coherent under a legal configuration. -/
theorem ReadyFlight.activate_pumps (h : ReadyFlight r d s) :
    TransferCoherent (s.enterIrq r) d ∧ LegalFormat (s.enterIrq r) ∧
    (activate r s).ch.get d = ((s.enterIrq r).pump d ((s.status r).get d).ovr).ch.get d ∧
    (activate r s).ctl.get d = ((s.enterIrq r).pump d ((s.status r).get d).ovr).ctl.get d := by
  have hi := enterIrq_core h.core r
  have ht := enterIrq_transfers h.coherent r
  have hb : ((s.enterIrq r).ch.get d).buffer ≠ null := h.inFlight
  obtain ⟨hc, hf, _⟩ := inflight_facts hi ht h.pumpMode hb
  exact ⟨hc, hf, dispatch_pumps hi ht h.pumpMode hb (.inl h.ready)⟩

/-- An activation with more frames left than the trigger level moves that many and goes on. -/
theorem ReadyFlight.activate_goesOn (h : ReadyFlight r d s) (hlong : s.params.trig d < s.framesLeft d) :
    ReadyFlight r d (activate r s) ∧ ((activate r s).ch.get d).buffer = (s.ch.get d).buffer ∧
      (activate r s).framesLeft d = s.framesLeft d - s.params.trig d := by
  have hb : ((s.enterIrq r).ch.get d).buffer ≠ null := h.inFlight
  have fr : EventFrame s (activate r s) := irq_frame s r
  obtain ⟨hc, hf, hch, hctl⟩ := h.activate_pumps
  have hn : (s.enterIrq r).completesNow d = false := decide_eq_false (Nat.not_le.mpr hlong)
  have hleft := (pump_coherent ((s.status r).get d).ovr hb hc hf hn).2
  have hbuf : ((activate r s).ch.get d).buffer = (s.ch.get d).buffer := by
    rw [hch, pump_ch _ hb hc hf, hn]
    rfl
  have hie : ((activate r s).ctl.get d).fifoIe = (s.ctl.get d).fifoIe := by
    rw [hctl, pump_ctl _ hb hc hf, hn]
    exact Bool.and_true _
  refine ⟨⟨exec_core h.core (exec_irq r s), ?coherent, ?pumpMode, ?inFlight, ?ready⟩, hbuf, ?left⟩
  case coherent => exact dispatch_transfers (enterIrq_core h.core r) (enterIrq_transfers h.coherent r) _
  case pumpMode => rw [fr.params]; exact h.pumpMode
  case inFlight => rw [hbuf]; exact h.inFlight
  case ready => rw [status_rdy_congr fr.params hie]; exact h.ready
  case left => exact (framesLeft_congr (fr.cfg.trans (pump_frame (s.enterIrq r) d _).cfg.symm) hch).trans hleft

/-- An activation with no more frames left than the trigger level ends the transfer. -/
theorem ReadyFlight.activate_ends (h : ReadyFlight r d s) (hshort : s.framesLeft d ≤ s.params.trig d) :
    ((activate r s).ch.get d).buffer = null := by
  have hb : ((s.enterIrq r).ch.get d).buffer ≠ null := h.inFlight
  obtain ⟨hc, hf, hch, _⟩ := h.activate_pumps
  have hn : (s.enterIrq r).completesNow d = true := decide_eq_true hshort
  rw [hch, pump_ch _ hb hc hf, hn]
  rfl

/-- A rule for callbacks up to a state in which the transfer is still in flight continues the rule from there. -/
theorem CbRule.of_goesOn {u t : State} (hsu : CbRule s u d) (hut : CbRule u t d) (hb : (s.ch.get d).buffer ≠ null)
    (hbuf : (u.ch.get d).buffer = (s.ch.get d).buffer) (hcb : u.cb = s.cb) : CbRule s t d := by
  obtain ⟨before, hbefore, _, hnone⟩ := hsu
  obtain ⟨after, hafter, st, hcall⟩ := hut
  rw [hbuf, if_neg fun h => hb h.2] at hnone
  rw [hbuf, hcb] at hcall
  refine ⟨before ++ after, by rw [hafter, hbefore, List.append_assoc], st, ?_⟩
  rw [List.filter_append, hnone, hcall, List.nil_append]

/-- What an activation leaves unchanged, any number of them do. -/
theorem iterate_activate_frame (r : BitVec 4) (s : State) : ∀ m, EventFrame s ((activate r)^[m] s)
  | 0 => EventFrame.refl s
  | m + 1 => by
    rw [Function.iterate_succ_apply']
    exact (iterate_activate_frame r s m).trans (irq_frame _ r)

/-- As long as `m` activations do not cover the frames left, the transfer goes on after them. -/
theorem ReadyFlight.iterate_activate (h : ReadyFlight r d s) : ∀ {m : Nat}, m * s.params.trig d < s.framesLeft d →
    ReadyFlight r d ((activate r)^[m] s) ∧ (((activate r)^[m] s).ch.get d).buffer = (s.ch.get d).buffer ∧
      ((activate r)^[m] s).framesLeft d = s.framesLeft d - m * s.params.trig d
  | 0, _ => ⟨h, rfl, by simp⟩
  | m + 1, hm => by
    rw [Nat.succ_mul] at hm ⊢
    obtain ⟨hu, hbuf, hleft⟩ := h.iterate_activate (m := m) (by omega)
    have hp := (iterate_activate_frame r s m).params
    obtain ⟨hu', hbuf', hleft'⟩ := hu.activate_goesOn (by rw [hleft, hp]; omega)
    rw [hleft, hp, Nat.sub_sub] at hleft'
    rw [Function.iterate_succ_apply']
    exact ⟨hu', hbuf'.trans hbuf, hleft'⟩

/-- A run of activations calls back as a single one does: only its last can end the transfer. -/
theorem ReadyFlight.iterate_activate_cbRule (h : ReadyFlight r d s) :
    ∀ {m : Nat}, m * s.params.trig d < s.framesLeft d → CbRule s ((activate r)^[m + 1] s) d
  | 0, _ => dispatch_cb s r d
  | m + 1, hm => by
    have hm' : m * s.params.trig d < s.framesLeft d := by rw [Nat.succ_mul] at hm; omega
    rw [Function.iterate_succ_apply']
    exact (h.iterate_activate_cbRule hm').of_goesOn (dispatch_cb _ r d) h.inFlight (h.iterate_activate hm).2.1
      (iterate_activate_frame r s _).cb

end

/-- Settles O47: the activations before the last move a full trigger level each, the last one the rest. -/
theorem transferCompletesInTime : Obligations.TransferCompletesInTime := by
  unfold Obligations.TransferCompletesInTime
  intro r s d n hi ht hd hb hrdy hpos hn
  have h : ReadyFlight r d s := ⟨hi, ht, hd, hb, hrdy⟩
  have covers : ∀ m, n ≤ m ↔ s.framesLeft d ≤ m * s.params.trig d := fun m => by
    rw [hn, ← Nat.ceilDiv_eq_add_pred_div, ceilDiv_le_iff_le_mul (trig_pos s.params d), Nat.mul_comm]
  have short : ∀ m, m < n → m * s.params.trig d < s.framesLeft d := fun m hm =>
    Nat.lt_of_not_le fun hle => Nat.not_le.mpr hm ((covers m).mpr hle)
  refine ⟨fun m hm => ?goesOn, ?ends⟩
  case goesOn =>
    obtain ⟨_, hbuf, hleft⟩ := h.iterate_activate (short m hm)
    exact ⟨_, irqTimes_eq_iterate r m s, hbuf, hleft⟩
  case ends =>
    obtain ⟨k, rfl⟩ : ∃ k, n = k + 1 := Nat.exists_eq_succ_of_ne_zero fun h0 => by
      have := (covers 0).mp (Nat.le_of_eq h0)
      omega
    obtain ⟨hu, _, hleft⟩ := h.iterate_activate (short k (Nat.lt_succ_self k))
    have hnull : (((activate r)^[k + 1] s).ch.get d).buffer = null := by
      rw [Function.iterate_succ_apply']
      apply hu.activate_ends
      have hall := (covers (k + 1)).mp (Nat.le_refl _)
      rw [Nat.succ_mul] at hall
      rw [hleft, (iterate_activate_frame r s k).params]
      omega
    obtain ⟨new, htrace, st, hcb⟩ := h.iterate_activate_cbRule (short k (Nat.lt_succ_self k))
    refine ⟨_, new, irqTimes_eq_iterate r (k + 1) s, htrace, hnull, ?_⟩
    rw [hcb, if_pos ⟨hb, hnull⟩]
    rfl

end Sys2Proof.Machine

/-! ### The dispatcher (45_dispatch.md R150 to R154) -/

namespace Sys2Proof.Machine

section
variable {s : State} {d : Dir}

/-- The dispatcher does nothing when each direction has both bits down or a stopped channel (45_dispatch.md R154). -/
theorem dispatch_of_idle {st : PerDir StatusBits}
    (h : ∀ d, ((st.get d).rdy = false ∧ (st.get d).ovr = false) ∨ (s.ch.get d).running = false) :
    s.dispatch st = s := by
  have idle : ∀ d, s.route d (st.get d) = s := fun d => by
    rcases h d with ⟨hrdy, hovr⟩ | hr
    · exact route_of_quiet hrdy hovr
    · exact route_of_stopped hr _
  calc s.dispatch st = (s.route .tx (st.get .tx)).route .rx (st.get .rx) := rfl
    _ = s := by rw [idle .tx, idle .rx]

/-- A running direction in DMA mode with a bit up is cleared and logged (45_dispatch.md R151, R152). -/
theorem route_dmaOverrun {b : StatusBits} (hr : (s.ch.get d).running = true) (hd : s.params.dma d = true)
    (hup : b.rdy = true ∨ b.ovr = true) : s.route d b = s.dmaOverrun d := by
  rcases route_cases s d b with ⟨hdown | hstop, _⟩ | ⟨_, _, ⟨_, h⟩ | ⟨hpump, _⟩⟩
  · obtain ⟨hrdy, hovr⟩ := Bool.or_eq_false_iff.mp hdown
    simp [hrdy, hovr] at hup
  · exact absurd hstop (by simp [hr])
  · exact h
  · exact absurd hpump (by simp [hd])

/-- `DMA_OVERRUN(d)` writes the raw overrun flag and appends its two events (45_dispatch.md R151). -/
theorem dmaOverrun_eq (s : State) (d : Dir) : s.dmaOverrun d = { s with
    raw := s.raw.set d { s.raw.get d with ovr := false }
    trace := s.trace ++ [.ovrClr d, .log (.errDmaOverrun d)] } := by
  simp [State.dmaOverrun, State.ovrClr, State.emit]

/-- Under owned enables the masked status word has no FIFO-ready bit of a DMA-mode direction (45_dispatch.md R151). -/
theorem status_rdy_of_dma (ho : EnablesOwned s) (hm : s.params.spec.statusMasked = true)
    (hd : s.params.dma d = true) (r : BitVec 4) : ((s.status r).get d).rdy = false := by
  have hoff : (s.ctl.get d).fifoIe = false := Bool.eq_false_iff.mpr fun hie => by
    have hpump := ((ho d).1 hie).1
    simp [hd] at hpump
  rw [status_get, if_pos hm, maskedBits, hoff, Bool.and_false]

end

/-- Settles O40: neither direction's part of the dispatcher does anything, so the entry is all that happens. -/
theorem idleActivation : Obligations.IdleActivation := by
  unfold Obligations.IdleActivation
  refine ⟨fun r s => ⟨_, exec_irq r s⟩, fun r s h => ⟨?_, rfl⟩⟩
  rw [exec_irq, dispatch_of_idle (s := s.enterIrq r) h]
  rfl

/-- Settles O42: the activation is the DMA-mode branch of one direction, which owned enables leave to the overrun bit. -/
theorem dmaOverrunLogged : Obligations.DmaOverrunLogged := by
  unfold Obligations.DmaOverrunLogged
  intro r s d hd hr hup hrdy' hovr'
  constructor
  · rw [exec_irq, dispatch_of_quiet hrdy' hovr', route_dmaOverrun (s := s.enterIrq r) hr hd hup,
      dmaOverrun_eq]
    rfl
  · intro ho hm
    exact hup.resolve_left (by simp [status_rdy_of_dma ho hm hd r])

end Sys2Proof.Machine

/-! ### A direction depends on itself alone (45_dispatch.md R152, R153) -/

namespace Sys2Proof.Machine

/-- Two states alike in all that is direction `d`'s, and in its events after the first `n` and `n'` of their traces. -/
structure DirAlike (d : Dir) (n n' : Nat) (s s' : State) : Prop where
  params : s'.params = s.params
  cfg : s'.cfg = s.cfg
  cb : s'.cb.get d = s.cb.get d
  ch : s'.ch.get d = s.ch.get d
  ctl : s'.ctl.get d = s.ctl.get d
  raw : s'.raw.get d = s.raw.get d
  length_le : n ≤ s.trace.length
  length_le' : n' ≤ s'.trace.length
  events : (s'.trace.drop n').filter (Event.isOf d) = (s.trace.drop n).filter (Event.isOf d)

/-- Two states alike in all that an activation reads or writes for direction `d`: what is the direction's, memory and the receive entries (10_state.md R36; log 5). -/
structure Alike (d : Dir) (n n' : Nat) (s s' : State) : Prop extends DirAlike d n n' s s' where
  mem : s'.mem = s.mem
  rxEntries : s'.rxEntries = s.rxEntries
  draws : s'.draws = s.draws

namespace Alike

section
variable {d : Dir} {n n' : Nat} {s s' : State} (h : Alike d n n' s s')
include h

/-! #### What alike states read alike -/

theorem leftIndex : s'.leftIndex d = s.leftIndex d := by
  unfold State.leftIndex; rw [h.ch]

theorem sampleAddr (i : Nat) : s'.sampleAddr d i = s.sampleAddr d i := by
  unfold State.sampleAddr; rw [h.ch, bps_congr h.cfg]

theorem rd (i : Nat) : s'.rd d i = s.rd d i :=
  rd_congr h.params h.cfg h.mem d (by rw [h.ch]) i

theorem rxEntry : s'.rxEntry = s.rxEntry := by
  unfold State.rxEntry; rw [h.rxEntries, h.draws]

theorem rxLeft : s'.rxLeft = s.rxLeft := by
  unfold State.rxLeft State.portValue; rw [h.rxEntry, h.cfg]

theorem rxRight : s'.rxRight = s.rxRight := by
  unfold State.rxRight State.portValue; rw [h.rxEntry, h.cfg]

theorem drained : s'.drained d = s.drained d := by
  unfold State.drained; rw [h.ch]

/-! #### The named operations keep states alike -/

theorem emit {e e' : Event} (he : e' = e) : Alike d n n' (s.emit e) (s'.emit e') where
  __ := h
  length_le := by simpa using Nat.le_succ_of_le h.length_le
  length_le' := by simpa using Nat.le_succ_of_le h.length_le'
  events := by
    subst he
    simp [State.emit, List.drop_append_of_le_length, h.length_le, h.length_le', h.events]

theorem setCh (f : Channel → Channel) : Alike d n n' (s.setCh d (f (s.ch.get d))) (s'.setCh d (f (s'.ch.get d))) :=
  { h with ch := by simp [h.ch] }

theorem setCtl (f : PortCtl → PortCtl) :
    Alike d n n' (s.setCtl d (f (s.ctl.get d))) (s'.setCtl d (f (s'.ctl.get d))) :=
  { h with ctl := by simp [h.ctl] }

theorem ovrClr : Alike d n n' (s.ovrClr d) (s'.ovrClr d) := by
  have lowered : Alike d n n' { s with raw := s.raw.set d { s.raw.get d with ovr := false } }
      { s' with raw := s'.raw.set d { s'.raw.get d with ovr := false } } := { h with raw := by simp [h.raw] }
  exact lowered.emit rfl

theorem rxr : Alike d n n' s.rxr s'.rxr := by
  have popped : Alike d n n' s.rxPopped s'.rxPopped := by
    unfold State.rxPopped
    rw [h.rxEntries]
    split
    · exact { h with rxEntries := rfl }
    · exact { h with rxEntries := rfl, draws := by rw [h.draws] }
  exact popped.emit (by rw [h.rxLeft, h.rxRight])

theorem wr {i i' v v' : Nat} (hi : i' = i) (hv : v' = v) : Alike d n n' (s.wr d i v) (s'.wr d i' v') := by
  subst hi hv
  exact { h with
    mem := by simp only [State.wr, State.memWrite, h.sampleAddr, bps_congr h.cfg, h.params, h.mem] }

theorem advance (l : FrameLayout) : Alike d n n' (s.advance d l) (s'.advance d l) :=
  h.setCh fun c => { c with index := c.index + indexStep l, count := c.count + countStep l }

/-! #### The pump keeps states alike -/

theorem latchIf (ovr : Bool) : Alike d n n' (s.latchIf d ovr) (s'.latchIf d ovr) := by
  unfold State.latchIf
  split
  · exact (h.setCtl ({ · with ovrIe := false })).ovrClr.setCh ({ · with overrun := true })
  · exact h

theorem complete : Alike d n n' (s.complete d) (s'.complete d) := by
  have released := (h.setCtl ({ · with fifoIe := false })).setCh
    ({ · with buffer := null, samples := 0#32, index := 0#32 })
  exact (released.emit (by rw [h.ch, h.cb])).setCh ({ · with overrun := false })

end

section
variable {n n' : Nat} {s s' : State}

theorem frameTx (h : Alike .tx n n' s s') : Alike .tx n n' s.frameTx s'.frameTx := by
  unfold State.frameTx
  rw [frameLayout_congr h.params h.cfg]
  cases s.frameLayout
  · exact (h.emit (by rw [h.leftIndex, h.rd])).advance .mono
  · exact (h.emit (by rw [h.leftIndex, h.rd, h.rd])).advance .interleaved
  · have hch : s'.ch.tx = s.ch.tx := h.ch
    exact (h.emit (by rw [h.leftIndex, hch, h.rd, h.rd])).advance .split

theorem frameRx (h : Alike .rx n n' s s') : Alike .rx n n' s.frameRx s'.frameRx := by
  have left := h.rxr.wr h.leftIndex h.rxLeft
  unfold State.frameRx
  rw [frameLayout_congr h.params h.cfg]
  cases s.frameLayout
  · exact left.advance .mono
  · exact (left.wr (by rw [h.leftIndex]) h.rxRight).advance .interleaved
  · have hch : s'.ch.rx = s.ch.rx := h.ch
    exact (left.wr (by rw [h.leftIndex, hch]) h.rxRight).advance .split

end

section
variable {d : Dir} {n n' : Nat} {s s' : State}

theorem frame (h : Alike d n n' s s') : Alike d n n' (s.frame d) (s'.frame d) := by
  cases d
  · exact h.frameTx
  · exact h.frameRx

theorem pumpFrames (h : Alike d n n' s s') (k : Nat) : Alike d n n' (s.pumpFrames d k) (s'.pumpFrames d k) := by
  induction k generalizing s s' with
  | zero => exact h
  | succ k ih =>
    unfold State.pumpFrames
    rw [h.drained]
    split
    · exact h
    · exact ih h.frame

theorem pump (h : Alike d n n' s s') (ovr : Bool) : Alike d n n' (s.pump d ovr) (s'.pump d ovr) := by
  have latched := h.latchIf ovr
  have moved := latched.pumpFrames ((s.latchIf d ovr).params.trig d)
  unfold State.pump State.pumpTransfer
  rw [latched.ch, latched.params]
  split
  · exact latched
  · dsimp only
    rw [moved.drained]
    split
    · exact moved.complete
    · exact moved

/-! #### The dispatcher's parts -/

/-- A direction's own part of the dispatcher keeps states alike. -/
theorem route (h : Alike d n n' s s') (b : StatusBits) : Alike d n n' (s.route d b) (s'.route d b) := by
  unfold State.route
  rw [h.ch, h.params]
  split
  · split
    · exact h.ovrClr.emit rfl
    · exact h.pump b.ovr
  · exact h

end

end Alike

section
variable {d e : Dir} {n n' : Nat} {s s' t : State}

/-- Events of one direction do not show among those of another. -/
theorem AppendsOf.events_other (h : AppendsOf e s t) (hd : d ≠ e) (hn : n ≤ s.trace.length) :
    (t.trace.drop n).filter (Event.isOf d) = (s.trace.drop n).filter (Event.isOf d) := by
  obtain ⟨new, htrace, hnew⟩ := h
  have hidden : new.filter (Event.isOf d) = [] :=
    List.filter_eq_nil_iff.mpr fun ev hev => by simp [hnew ev hev d hd]
  rw [htrace, List.drop_append_of_le_length hn, List.filter_append, hidden, List.append_nil]

/-- The dispatcher's part for one direction keeps states alike in the other one, whatever it does in either of them. -/
theorem DirAlike.route_other (h : DirAlike d n n' s s') (hd : d ≠ e) (b b' : StatusBits) :
    DirAlike d n n' (s.route e b) (s'.route e b') := by
  have fr := route_frame s e b
  have fr' := route_frame s' e b'
  have own := route_dirFrame s hd b
  have own' := route_dirFrame s' hd b'
  exact {
    params := by rw [fr.params, fr'.params, h.params]
    cfg := by rw [fr.cfg, fr'.cfg, h.cfg]
    cb := by rw [fr.cb, fr'.cb, h.cb]
    ch := by rw [own.ch, own'.ch, h.ch]
    ctl := by rw [own.ctl, own'.ctl, h.ctl]
    raw := by rw [own.raw, own'.raw, h.raw]
    length_le := h.length_le.trans fr.trace.length_le
    length_le' := h.length_le'.trans fr'.trace.length_le
    events := by
      rw [(route_appends s e b).events_other hd h.length_le, (route_appends s' e b').events_other hd h.length_le',
        h.events] }

/-- The transmit part takes nothing from the environment that the receive part reads. -/
theorem Alike.route_tx (h : Alike .rx n n' s s') (b b' : StatusBits) :
    Alike .rx n n' (s.route .tx b) (s'.route .tx b') where
  toDirAlike := h.toDirAlike.route_other (by decide) b b'
  mem := by rw [route_tx_mem, route_tx_mem, h.mem]
  rxEntries := by rw [(route_tx_env s b).1, (route_tx_env s' b').1, h.rxEntries]
  draws := by rw [(route_tx_env s b).2, (route_tx_env s' b').2, h.draws]

/-- After an activation states alike in a direction whose bits agree are alike in it, for receive in the environment too. -/
theorem Alike.dispatch {st st' : PerDir StatusBits} (h : Alike d n n' s s') (hst : st'.get d = st.get d) :
    DirAlike d n n' (s.dispatch st) (s'.dispatch st') ∧
    (d = .rx → Alike d n n' (s.dispatch st) (s'.dispatch st')) := by
  unfold State.dispatch
  cases d
  case tx =>
    have hst : st'.tx = st.tx := hst
    rw [hst]
    exact ⟨(h.route st.tx).toDirAlike.route_other (by decide) _ _, nofun⟩
  case rx =>
    have hst : st'.rx = st.rx := hst
    rw [hst]
    have after := (h.route_tx st.tx st'.tx).route st.rx
    exact ⟨after.toDirAlike, fun _ => after⟩

end

/-- Settles O45: states alike in a direction enter the activation with the same bits of it, and every operation of the dispatcher keeps them alike. -/
theorem directionsIndependent : Obligations.DirectionsIndependent := by
  unfold Obligations.DirectionsIndependent
  intro r r' s s' t t' d hp hcfg hch hctl hcb hmem hentries hdraws hraw ht ht'
  obtain rfl := Host.Outcome.next.inj ((exec_irq r s).symm.trans ht)
  obtain rfl := Host.Outcome.next.inj ((exec_irq r' s').symm.trans ht')
  have entered : Alike d s.trace.length s'.trace.length (s.enterIrq r) (s'.enterIrq r') :=
    { params := hp, cfg := hcfg, cb := hcb, ch := hch, ctl := hctl, raw := hraw, mem := hmem, rxEntries := hentries
      draws := hdraws, length_le := le_rfl, length_le' := le_rfl, events := by simp }
  have hst : (s'.status r').get d = (s.status r).get d := by rw [status_get, status_get, hp, hraw, hctl]
  obtain ⟨own, env⟩ := entered.dispatch hst
  exact ⟨own.ch, own.ctl, own.raw, own.events, fun hd => ⟨(env hd).mem, (env hd).rxEntries⟩⟩

end Sys2Proof.Machine

/-! ### `DISABLE` (46_disable.md R160 to R163) -/

namespace Sys2Proof.Machine

/-- Writing back what a direction holds changes nothing. -/
theorem set_get_same {α : Type} (p : PerDir α) (d : Dir) : p.set d (p.get d) = p := by cases d <;> rfl

section
variable {s t u : State} {d : Dir}

@[simp] theorem exec_disableInstr (s : State) (d : Dir) :
    exec (disableInstr d) s = .next ((s.disableOne d).finish .ok) := by cases d <;> rfl

@[simp] theorem exec_disableBoth (s : State) :
    exec .disableBoth s = .next (((s.disableOne .tx).disableOne .rx).finish .ok) := rfl

/-! #### `DISABLE BOTH` as one record (R161) -/

/-- A `DISABLE_ONE` in DMA mode uses up one answer of the engine, so the next stop request gets the one after it. -/
theorem disableOne_stopEventsAt (s : State) (d e : Dir) :
    (s.disableOne d).stopEventsAt e 0 = s.stopEventsAt e (s.params.dma d).toNat := by
  have answer : (s.disableOne d).dmaAnswerAt 0 = s.dmaAnswerAt (s.params.dma d).toNat := by
    rw [dmaAnswerAt_zero]
    apply dmaAnswer_of <;> rw [disableOne_outcome]
  rw [State.stopEventsAt, State.stopEventsAt, answer, State.disableOne_params]

/-- The answers drawn for `m` requests and then for `n` more, by the length of what is queued. -/
theorem draws_add (draws m n len : Nat) :
    draws + (m - len) + (n - (len - m)) = draws + (m + n - len) := by omega

/-- Everything the two resets of `DISABLE BOTH` do, transmit first. -/
theorem disableBoth_outcome (s : State) :
    (s.disableOne .tx).disableOne .rx =
      { s with
        ch := { tx := disabledChannel s.ch.tx, rx := disabledChannel s.ch.rx }
        ctl := { tx := disabledCtl s.ctl.tx, rx := disabledCtl s.ctl.rx }
        dmaAnswers := s.dmaAnswers.drop ((s.params.dma .tx).toNat + (s.params.dma .rx).toNat)
        draws := s.draws + ((s.params.dma .tx).toNat + (s.params.dma .rx).toNat - s.dmaAnswers.length)
        trace := s.trace ++ s.stopEventsAt .tx 0 ++ [.fifoClr .tx] ++
          s.stopEventsAt .rx (s.params.dma .tx).toNat ++ [.fifoClr .rx] } := by
  rw [disableOne_outcome (s.disableOne .tx), disableOne_stopEventsAt, disableOne_outcome s, List.drop_drop,
    List.length_drop, draws_add]
  rfl

/-! #### After a `DISABLE` (R163) -/

theorem disableOne_ch (s : State) (d : Dir) : (s.disableOne d).ch.get d = disabledChannel (s.ch.get d) := by
  rw [disableOne_eq]
  exact PerDir.get_set_same _ _ _

theorem disableOne_ctl (s : State) (d : Dir) : (s.disableOne d).ctl.get d = disabledCtl (s.ctl.get d) := by
  rw [disableOne_eq]
  exact PerDir.get_set_same _ _ _

/-- `DISABLE_ONE` of a direction that is already reset changes only the trace and the engine's answers. -/
theorem disableOne_of_reset (hch : disabledChannel (s.ch.get d) = s.ch.get d)
    (hctl : disabledCtl (s.ctl.get d) = s.ctl.get d) :
    s.disableOne d = { s with
      trace := (s.disableOne d).trace, dmaAnswers := (s.disableOne d).dmaAnswers, draws := (s.disableOne d).draws } := by
  rw [disableOne_eq, hch, hctl, set_get_same, set_get_same]

/-- A second `DISABLE` of the same direction finds it reset, and `RES` at 0 already. -/
theorem disable_again (ht : exec (disableInstr d) s = .next t) (hu : exec (disableInstr d) t = .next u) :
    u = { t with trace := u.trace, dmaAnswers := u.dmaAnswers, draws := u.draws } := by
  rw [exec_disableInstr] at ht hu
  cases ht
  cases hu
  rw [disableOne_of_reset (s := (s.disableOne d).finish .ok)
    (by rw [State.finish_ch, disableOne_ch]; rfl) (by rw [State.finish_ctl, disableOne_ctl]; rfl)]
  rfl

/-- An arm that answers is `ARM(d)` (42_arm.md R116). -/
theorem arm_of_exec_next (h : exec (armInstr d) s = .next t) : t = s.arm d := by
  rw [exec_armInstr] at h
  rcases armCommand_cases d s with ⟨_, e⟩ | ⟨_, _, e⟩ | ⟨_, _, e⟩ <;> rw [e] at h <;> cases h
  rfl

/-- An accepted pump-mode arm of a stopped direction is a fresh start (42_arm.md R112). -/
theorem arm_freshStart (hd : s.params.dma d = false) (hr : (s.ch.get d).running = false) (hres : (s.arm d).res = 0#32) :
    ((s.arm d).ch.get d).running = true ∧ (s.arm d).ctl.get d =
      { s.ctl.get d with chanEn := true, blkEn := true, fifoIe := true, ovrIe := true } := by
  rcases arm_own s d with ⟨_, _, rejected⟩ | ⟨_, _, _, _, _, hch, hctl⟩ | ⟨_, hdma, _⟩ | ⟨_, _, hdma, _⟩
  · exact absurd hres rejected
  · rw [hch, hctl, hr]
    simp
  · simp [hd] at hdma
  · simp [hd] at hdma

end

/-- Settles O35: one `DISABLE_ONE` by `disableOne_outcome`, both by `disableBoth_outcome`, and then the end of the command. -/
theorem disableResets : Obligations.DisableResets := by
  unfold Obligations.DisableResets
  refine fun s => ⟨fun d => ?one, ?both⟩
  case one =>
    rw [exec_disableInstr, disableOne_outcome]
    simp [State.finish, State.emit, ResultCode.word]
  case both =>
    rw [exec_disableBoth, disableBoth_outcome]
    simp [State.finish, State.emit, ResultCode.word, disabledChannel, disabledCtl]

/-- Settles O36: the reset direction is a fixed point of `DISABLE_ONE`, and its channel is stopped, so the next arm is a fresh start. -/
theorem disableIsIdempotent : Obligations.DisableIsIdempotent := by
  unfold Obligations.DisableIsIdempotent
  intro s t d he
  have idle := phase_idle_of_disables (disablesDir_disableInstr d) he
  refine ⟨idle, ?again, fun b l u hd hu hres => ?nextArm⟩
  case again => exact ⟨_, exec_disableInstr t d, disable_again he (exec_disableInstr t d)⟩
  case nextArm =>
    obtain rfl := arm_of_exec_next hu
    obtain ⟨_, hr⟩ := phase_idle_iff.mp idle
    exact arm_freshStart ((congrArg (·.dma d) (exec_params he)).trans hd) hr hres

end Sys2Proof.Machine

/-! ### `GET_CONFIG` and `REGISTER_CALLBACK` (47_query.md R165, R166) -/

namespace Sys2Proof.Machine

/-- Settles O28: the record of `State.getConfig`, with the end of the command. -/
theorem getConfigReturnsStored : Obligations.GetConfigReturnsStored := by
  unfold Obligations.GetConfigReturnsStored
  exact fun _ => rfl

/-- Settles O29: the record of `State.registerCallback` for each direction, with the end of the command. -/
theorem registerCallbackStores : Obligations.RegisterCallbackStores := by
  unfold Obligations.RegisterCallbackStores
  exact fun _ => ⟨rfl, rfl⟩

end Sys2Proof.Machine

/-! ### Reset and suspend (10_state.md R40; 60_exceptions.md R193; 70_reset_and_hazards.md R201) -/

namespace Sys2Proof.Machine

/-- At reset every direction is idle: its Channel record has its reset value. -/
theorem reset_phase (d : Dir) : State.reset.phase d = .idle := by
  rw [phase_idle_iff, reset_ch]
  exact ⟨rfl, rfl⟩

/-- Settles O11: the Channel records at reset, the values the reset state names, and the idle step. -/
theorem resetIsPassive : Obligations.ResetIsPassive := by
  unfold Obligations.ResetIsPassive
  exact ⟨reset_phase .tx, reset_phase .rx, rfl, rfl, rfl, rfl, step_nil rfl⟩

section
variable {s : State}

theorem step_suspend {rest : List Stimulus} (h : s.pending = .suspend :: rest) :
    step s = suspend { s with pending := rest } := by
  unfold step; rw [h]

theorem inFlight_iff {d : Dir} : s.inFlight d = true ↔ (s.ch.get d).buffer ≠ null := decide_eq_true_iff

/-- A suspend with no transfer in flight. -/
theorem suspend_of_no_flight (htx : s.ch.tx.buffer = null) (hrx : s.ch.rx.buffer = null) :
    suspend s = .next { s with ctl := Config.suspendCtl s.draws, draws := s.draws + 1 } := by
  refine if_neg ?_
  rw [Bool.or_eq_true, inFlight_iff, inFlight_iff]
  exact not_or.mpr ⟨not_not_intro htx, not_not_intro hrx⟩

/-- A suspend with a transfer in flight (93 U18). -/
theorem suspend_of_flight (h : s.ch.tx.buffer ≠ null ∨ s.ch.rx.buffer ≠ null) :
    suspend s = .refused .suspendInFlight := by
  refine if_pos ?_
  rw [Bool.or_eq_true, inFlight_iff, inFlight_iff]
  exact h

end

/-- Settles O9: the step of a suspend, by whether a transfer is in flight. -/
theorem suspendDrawsControls : Obligations.SuspendDrawsControls := by
  unfold Obligations.SuspendDrawsControls
  intro s rest hp
  rw [step_suspend hp]
  exact ⟨suspend_of_no_flight (s := { s with pending := rest }),
    suspend_of_flight (s := { s with pending := rest })⟩

end Sys2Proof.Machine

/-! ### The status word and the interrupt line (60_exceptions.md R171, R172) -/

namespace Sys2Proof.Machine

/-- Settles O38: the two branches of the status mux. -/
theorem statusWord : Obligations.StatusWord := by
  unfold Obligations.StatusWord
  intro s r
  unfold State.status
  refine ⟨fun hm => ?masked, fun hm => ?raw⟩
  case masked => rw [if_pos hm]; rfl
  case raw => rw [hm, if_neg Bool.false_ne_true]; rfl

/-- A direction raises the line by a raw flag behind its enable. -/
theorem lineOf_iff {raw : StatusBits} {c : PortCtl} :
    lineOf raw c = true ↔ (raw.rdy = true ∧ c.fifoIe = true) ∨ (raw.ovr = true ∧ c.ovrIe = true) := by
  simp only [lineOf, Bool.or_eq_true, Bool.and_eq_true]

section
variable {s : State}

/-- The line is high when some direction raises it. -/
theorem irqLine_iff : s.irqLine = true ↔ ∃ d, lineOf (s.raw.get d) (s.ctl.get d) = true := by
  rw [State.irqLine, State.irqLineFor, Bool.or_eq_true]
  constructor
  · rintro (h | h)
    · exact ⟨.tx, h⟩
    · exact ⟨.rx, h⟩
  · rintro ⟨_ | _, h⟩
    · exact .inl h
    · exact .inr h

/-- Under owned enables a direction that raises the line is running: its FIFO interrupt is owned by a transfer in flight, its overrun interrupt by a running channel (70_reset_and_hazards.md R212 (b)). -/
theorem running_of_lineOf (hi : CoreInvariant s) (ho : EnablesOwned s) {d : Dir}
    (h : lineOf (s.raw.get d) (s.ctl.get d) = true) : (s.ch.get d).running = true := by
  obtain ⟨hfifo, hovr⟩ := ho d
  rcases lineOf_iff.mp h with ⟨_, hie⟩ | ⟨_, hie⟩
  · exact hi.inFlightRuns d (hfifo hie).2
  · exact hovr hie

end

/-- Settles O39: the line as the or of its four terms, and the running channel behind each. -/
theorem interruptLine : Obligations.InterruptLine := by
  unfold Obligations.InterruptLine
  refine fun s => ⟨?line, fun hi ho => ⟨fun d => running_of_lineOf hi ho, fun h => ?storm⟩⟩
  case line => rw [State.irqLine, State.irqLineFor, Bool.or_eq_true, lineOf_iff, lineOf_iff, or_assoc]
  case storm =>
    obtain ⟨d, hd⟩ := irqLine_iff.mp h
    exact ⟨d, hd, running_of_lineOf hi ho hd⟩

end Sys2Proof.Machine

/-! ### A `CONFIGURE` that succeeds, and what it leaves behind (41_configure.md R102, R108; 60_exceptions.md R193; 70_reset_and_hazards.md R210, R211) -/

namespace Sys2Proof.Machine

section
variable {s : State}

/-- The outputs of the calculator that a coherent configuration has in its clock registers. -/
def storedClkOut (s : State) : ClkOut where
  divisor := s.clkDiv.toNat
  bclk := requestedBclk s.cfg.bitDepth s.cfg.sampleRate
  achieved := s.params.clockSourceHz / s.clkDiv.toNat
  warn := s.clkWarn

/-- On a coherent configuration the calculator succeeds again, with the stored outputs (40_clock_divisor.md R98 item 4). -/
theorem ConfigCoherent.clkDivOf_stored (h : ConfigCoherent s) :
    clkDivOf s.params s.cfg.bitDepth s.cfg.sampleRate = some (storedClkOut s) := by
  have rate : s.cfg.sampleRate ≠ 0#32 := fun hz => by
    have hdiv := h.divisorIs
    rw [hz, BitVec.toNat_zero, Nat.mul_zero, Nat.div_zero] at hdiv
    have := h.divisorLegal.1
    omega
  exact clkDivOf_eq_some_iff.mpr ⟨rate, rfl, h.divisorIs, h.divisorLegal, rfl, h.warnIs⟩

/-- After a successful `CONFIGURE` an arm is prepared as before, and the channels and interrupts are off (41_configure.md R102, R106, R108). -/
theorem configure_of_res (h : s.configure.res = 0#32) :
    s.configure.cfgValid = true ∧ s.configure.cb = s.cb ∧
      ∀ d, (s.configure.ctl.get d).chanEn = false ∧ (s.configure.ctl.get d).fifoIe = false ∧
        (s.configure.ctl.get d).ovrIe = false := by
  obtain ⟨w, c, _, _, _, e⟩ := configure_success_of_res h
  rw [e, configureWith_eq]
  exact ⟨rfl, rfl, fun d => by cases d <;> exact ⟨rfl, rfl, rfl⟩⟩

/-- An arm of a running channel is no fresh start: `chan_en` stays as it is (42_arm.md R113; 43_dma.md R120 line 4). -/
theorem arm_chanEn_of_running {d : Dir} (hr : (s.ch.get d).running = true) :
    ((s.arm d).ctl.get d).chanEn = (s.ctl.get d).chanEn := by
  rcases arm_own s d with ⟨_, h, _⟩ | ⟨_, _, _, _, _, _, h⟩ | ⟨_, _, _, _, h⟩ | ⟨_, _, _, _, _, h⟩ <;> rw [h]
  · simp [hr]
  · simp [hr]

/-- Behind the status mux a direction with its interrupt enables off has no bit up (60_exceptions.md R171). -/
theorem status_of_off {d : Dir} (hm : s.params.spec.statusMasked = true) (hf : (s.ctl.get d).fifoIe = false)
    (ho : (s.ctl.get d).ovrIe = false) (r : BitVec 4) :
    ((s.status r).get d).rdy = false ∧ ((s.status r).get d).ovr = false := by
  rw [status_get, if_pos hm, maskedBits, hf, ho]
  exact ⟨Bool.and_false _, Bool.and_false _⟩

/-- With every interrupt enable off an activation behind the mux is its entry alone. -/
theorem activate_of_off (hm : s.params.spec.statusMasked = true)
    (hoff : ∀ d, (s.ctl.get d).fifoIe = false ∧ (s.ctl.get d).ovrIe = false) (r : BitVec 4) :
    exec (.irq r) s = .next (s.enterIrq r) := by
  rw [exec_irq, dispatch_of_idle fun d => .inl (status_of_off hm (hoff d).1 (hoff d).2 r)]

end

/-- Settles O25: the stored values pass every check, and the calculator gives the stored clock again. -/
theorem resumeRestoresConfiguration : Obligations.ResumeRestoresConfiguration := by
  unfold Obligations.ResumeRestoresConfiguration
  intro s hi hv
  have hc := hi.configCoherent hv
  refine ⟨_, exec_configure _, ?_⟩
  rw [configure_of_success hc.wssIs hc.channelsLegal hc.clkDivOf_stored, configureWith_eq]
  exact ⟨rfl, rfl, rfl, (BitVec.ofNat_toNat _ _).trans (BitVec.setWidth_eq _), rfl, rfl, hc.achievedIs.symm, rfl,
    fun d => by cases d <;> exact ⟨rfl, rfl, rfl, rfl⟩, rfl, rfl⟩

/-- Settles O26: `CONFIGURE` writes no Channel record and turns the channels off, and the arm of a running channel is no fresh start. -/
theorem configureLeavesRunningStale : Obligations.ConfigureLeavesRunningStale := by
  unfold Obligations.ConfigureLeavesRunningStale
  intro s t d he hres hr
  obtain rfl := Host.Outcome.next.inj ((exec_configure s).symm.trans he)
  have stale : (s.configure.ch.get d).running = true := by rw [configure_ch]; exact hr
  obtain ⟨_, _, hoff⟩ := configure_of_res hres
  refine ⟨stale, (hoff d).1, fun b l u hu => ?_⟩
  obtain rfl := arm_of_exec_next hu
  exact (arm_chanEn_of_running (s := { s.configure with x0 := b, x1 := l }) stale).trans (hoff d).1

/-- Settles O27: behind the mux no activation finds a bit up, and the buffer still borrowed turns an arm away. -/
theorem configureStallsTransfer : Obligations.ConfigureStallsTransfer := by
  unfold Obligations.ConfigureStallsTransfer
  intro s t d he hres hm _ hb
  obtain rfl := Host.Outcome.next.inj ((exec_configure s).symm.trans he)
  obtain ⟨hv, hcb, hoff⟩ := configure_of_res hres
  have hm' : s.configure.params.spec.statusMasked = true := by rw [s.configure_params]; exact hm
  refine ⟨fun r u hu => ?activation, fun b l hx hl hc => ?arm⟩
  case activation =>
    obtain rfl := Host.Outcome.next.inj ((activate_of_off hm' (fun d => (hoff d).2) r).symm.trans hu)
    refine ⟨by rw [State.enterIrq_ch, configure_ch], rfl, fun e hmem => ?_⟩
    rw [State.enterIrq_trace, List.drop_length] at hmem
    cases hmem
  case arm =>
    have busy : (s.configure.ch.get d).buffer ≠ null := by rw [configure_ch]; exact hb
    rw [exec_armInstr, armCommand_prepared (s := { s.configure with x0 := b, x1 := l }) hv (by rwa [hcb]),
      arm_of_busy (s := { s.configure with x0 := b, x1 := l }) hx hl busy]
    rfl

end Sys2Proof.Machine

/-! ### What event operations and commands write (60_exceptions.md R185, R186) -/

namespace Sys2Proof.Machine

section
variable {s t u : State} {d e : Dir}

theorem EnablesNarrow.trans (h : EnablesNarrow d s t) (k : EnablesNarrow d t u) : EnablesNarrow d s u where
  fifo hu := by
    obtain ⟨ht, hb⟩ := k.fifo hu
    obtain ⟨hs, hb'⟩ := h.fifo ht
    exact ⟨hs, hb.trans hb'⟩
  ovr hu := h.ovr (k.ovr hu)

/-- An activation turns no interrupt enable on (45_dispatch.md R155 item 5). -/
theorem irq_narrow (s : State) (r : BitVec 4) (d : Dir) :
    EnablesNarrow d s ((s.enterIrq r).dispatch (s.status r)) :=
  have entered : EnablesNarrow d s (s.enterIrq r) := .of_same rfl rfl
  entered.trans ((route_narrow _ .tx d _).trans (route_narrow _ .rx d _))

/-- The dispatcher's part for one direction keeps or clears every buffer pointer. -/
theorem route_buffer (s : State) (d e : Dir) (b : StatusBits) :
    ((s.route d b).ch.get e).buffer = (s.ch.get e).buffer ∨ ((s.route d b).ch.get e).buffer = null := by
  by_cases hed : e = d
  · subst hed
    rcases route_cases s e b with ⟨_, h⟩ | ⟨_, _, ⟨_, h⟩ | ⟨_, h⟩⟩ <;> rw [h]
    · exact .inl rfl
    · exact .inl rfl
    · exact pump_buffer s e b.ovr
  · exact .inl (by rw [(route_dirFrame s hed b).ch])

/-- An activation keeps or clears every buffer pointer (60_exceptions.md R186). -/
theorem irq_buffer (s : State) (r : BitVec 4) (d : Dir) :
    (((s.enterIrq r).dispatch (s.status r)).ch.get d).buffer = (s.ch.get d).buffer ∨
      (((s.enterIrq r).dispatch (s.status r)).ch.get d).buffer = null := by
  unfold State.dispatch
  rcases route_buffer ((s.enterIrq r).route .tx (s.status r).tx) .rx d (s.status r).rx with h | h
  · rw [h]
    exact route_buffer (s.enterIrq r) .tx d (s.status r).tx
  · exact .inr h

theorem dmaDone_buffer (s : State) (e d : Dir) (st : Word) :
    ((s.dmaDone e st).ch.get d).buffer = (s.ch.get d).buffer ∨ ((s.dmaDone e st).ch.get d).buffer = null := by
  rcases dmaDone_cases s e st with ⟨_, h⟩ | ⟨_, _, h⟩ <;> rw [h]
  · exact .inl rfl
  · rw [(dmaComplete_spec s e st).1, PerDir.get_set]
    split
    · exact .inr rfl
    · exact .inl rfl

/-- An arm sets the pointer of its direction when it is accepted, and keeps it otherwise. -/
theorem arm_buffer (s : State) (d : Dir) :
    ((s.arm d).ch.get d).buffer = (s.ch.get d).buffer ∨
    ((s.ch.get d).buffer = null ∧ (s.arm d).res = 0#32 ∧ ((s.arm d).ch.get d).buffer = s.x0) := by
  rcases arm_own s d with ⟨hch, _⟩ | ⟨_, hb, _, _, hres, hch, _⟩ | ⟨hb, _, _, hch, _⟩ | ⟨_, hb, _, hres, hch, _⟩ <;>
    rw [hch]
  · exact .inl rfl
  · exact .inr ⟨hb, hres, rfl⟩
  · exact .inl hb.symm
  · exact .inr ⟨hb, hres, rfl⟩

/-- Every operation keeps a direction's buffer pointer, but an accepted arm of the direction, an event, or a `DISABLE` that selects it (60_exceptions.md R186). -/
theorem exec_buffer {i : Instr} (h : exec i s = .next t) (d : Dir) :
    (t.ch.get d).buffer = (s.ch.get d).buffer ∨
    ((s.ch.get d).buffer = null ∧ i = armInstr d ∧ t.res = 0#32 ∧ (t.ch.get d).buffer = s.x0) ∨
    ((t.ch.get d).buffer = null ∧ (isCommand i = false ∨ disablesDir i d = true)) := by
  rcases exec_kinds h with ⟨_, rfl⟩ | ⟨e, _, rfl⟩ | ⟨e, hi, _, rfl⟩ | ⟨e, rfl, rfl⟩ | ⟨rfl, rfl⟩ | ⟨_, rfl⟩ |
    ⟨r, rfl, rfl⟩ | ⟨e, st, rfl, rfl⟩
  · exact .inl (by rw [configure_ch])
  · exact .inl rfl
  · by_cases hde : d = e
    · subst hde
      exact (arm_buffer s d).imp_right fun ⟨hb, hres, hb'⟩ => .inl ⟨hb, hi, hres, hb'⟩
    · exact .inl (by rw [(arm_other s hde).1])
  · by_cases hde : d = e
    · subst hde
      obtain ⟨hb, _⟩ := phase_idle_iff.mp (disableOne_phase_own s d)
      exact .inr (.inr ⟨hb, .inr (disablesDir_disableInstr d)⟩)
    · exact .inl (congrArg Channel.buffer (disableOne_other s hde).1)
  · obtain ⟨hb, _⟩ := phase_idle_iff.mp (disableBoth_phase s d)
    exact .inr (.inr ⟨hb, .inr (disablesDir_iff.mpr (.inr rfl))⟩)
  · exact .inl rfl
  · exact (irq_buffer s r d).imp_right fun hb => .inr ⟨hb, .inl rfl⟩
  · exact (dmaDone_buffer s e d st).imp_right fun hb => .inr ⟨hb, .inl rfl⟩

/-- An operation is a command, or stays within the frame of the events. -/
theorem exec_eventFrame {i : Instr} (h : exec i s = .next t) : isCommand i = true ∨ EventFrame s t := by
  cases i with
  | irq r => cases h; exact .inr (irq_frame s r)
  | dmaDone d st => cases h; exact .inr (dmaDone_frame s d st)
  | _ => exact .inl rfl

end

/-- Settles O46: the frame of an activation, its enables and its buffer pointers. -/
theorem activationFrame : Obligations.ActivationFrame := by
  unfold Obligations.ActivationFrame
  intro r s t h
  obtain rfl := Host.Outcome.next.inj ((exec_irq r s).symm.trans h)
  have f := irq_frame s r
  refine ⟨f.params, f.x0, f.x1, f.x2, f.x3, f.x4, f.x5, f.cmd, f.res, f.cfg, f.cfgValid, f.clkDiv, f.wss, f.clkEn,
    f.achievedBclk, f.clkWarn, f.cb, f.pending, f.dmaAnswers, f.trace, fun d => ?_⟩
  obtain ⟨hfifo, hovr⟩ := irq_narrow s r d
  exact ⟨f.running d, f.blockBytes d, f.chanEn d, f.blkEn d, f.wlen d, fun hie => (hfifo hie).1, hovr,
    irq_buffer s r d⟩

/-- Settles O57: the pointer by `exec_buffer`, and `running` by the frame of the events. -/
theorem bufferPointerWriters : Obligations.BufferPointerWriters := by
  unfold Obligations.BufferPointerWriters
  intro i s t d h
  refine ⟨fun hs ht => ?set, fun hs hne => ?clear, fun hne => ?running⟩
  case set =>
    rcases exec_buffer h d with hkept | ⟨_, harm⟩ | ⟨hnull, _⟩
    · exact absurd (hkept.trans hs) ht
    · exact harm
    · exact absurd hnull ht
  case clear =>
    rcases exec_buffer h d with hkept | ⟨hnull, _⟩ | hclear
    · exact absurd hkept hne
    · exact absurd hnull hs
    · exact hclear
  case running => exact (exec_eventFrame h).resolve_right fun f => hne (f.running d)

end Sys2Proof.Machine

/-! ### The end of a command (60_exceptions.md R175, R176, R180) -/

namespace Sys2Proof.Machine

/-- The event ends no command. -/
def NoResult (e : Event) : Prop := e.isResult = false

section
variable {s t : State}

theorem emit_noResult (s : State) {e : Event} (he : e.isResult = false) : Adds NoResult s (s.emit e) :=
  ⟨[e], rfl, List.forall_mem_singleton.mpr he⟩

/-! #### Events emit no result -/

theorem frame_noResult (s : State) (d : Dir) : Adds NoResult s (s.frame d) := by
  cases d
  · unfold Adds
    simp only [State.frame, State.frameTx]
    split <;> simp [State.frameTxMono, State.frameTxInterleaved, State.frameTxSplit, NoResult, Event.isResult]
  · exact ⟨_, frame_rx_trace s, by simp [State.rxFrameEvent, NoResult, Event.isResult]⟩

theorem latchIf_noResult (s : State) (d : Dir) (ovr : Bool) : Adds NoResult s (s.latchIf d ovr) :=
  ⟨_, latchIf_trace s d ovr, by cases ovr <;> simp [NoResult, Event.isResult]⟩

theorem pumpFrames_noResult (s : State) (d : Dir) (k : Nat) : Adds NoResult s (s.pumpFrames d k) :=
  pumpFrames_induction (P := Adds NoResult s) d (fun t h _ => h.trans (frame_noResult t d)) k s (Adds.refl _ s)

theorem complete_noResult (s : State) (d : Dir) : Adds NoResult s (s.complete d) := by
  obtain ⟨_, _, _, _, htrace⟩ := complete_spec s d
  exact ⟨_, htrace, by simp [NoResult, Event.isResult]⟩

theorem pump_noResult (s : State) (d : Dir) (ovr : Bool) : Adds NoResult s (s.pump d ovr) := by
  have latched := latchIf_noResult s d ovr
  have moved := latched.trans (pumpFrames_noResult _ d (s.params.trig d))
  rcases pump_cases s d ovr with ⟨_, h⟩ | ⟨_, ⟨_, h⟩ | ⟨_, h⟩⟩ <;> rw [h]
  · exact latched
  · exact moved
  · exact moved.trans (complete_noResult _ d)

theorem route_noResult (s : State) (d : Dir) (b : StatusBits) : Adds NoResult s (s.route d b) := by
  rcases route_cases s d b with ⟨_, h⟩ | ⟨_, _, ⟨_, h⟩ | ⟨_, h⟩⟩ <;> rw [h]
  · exact Adds.refl _ s
  · rw [dmaOverrun_eq]
    exact ⟨_, rfl, by simp [NoResult, Event.isResult]⟩
  · exact pump_noResult s d b.ovr

theorem irq_noResult (s : State) (r : BitVec 4) : Adds NoResult s ((s.enterIrq r).dispatch (s.status r)) :=
  have entered : Adds NoResult s (s.enterIrq r) := ⟨[], by simp, by simp⟩
  entered.trans ((route_noResult _ .tx _).trans (route_noResult _ .rx _))

theorem dmaComplete_noResult (s : State) (d : Dir) (st : Word) : Adds NoResult s (s.dmaComplete d st) := by
  have released : Adds NoResult s (s.setCh d { s.ch.get d with buffer := null }) := ⟨[], by simp, by simp⟩
  have invalidated : ∀ u : State, ∀ b, Adds NoResult u (u.invalidateRx d b) := fun u b => by
    cases d
    · exact Adds.refl _ u
    · exact emit_noResult u rfl
  have logged : ∀ u : State, Adds NoResult u (u.logDmaStatus d st) := fun u => by
    rw [logDmaStatus_eq]
    exact ⟨_, rfl, by split <;> simp [NoResult, Event.isResult]⟩
  exact ((released.trans (invalidated _ _)).trans (logged _)).trans (emit_noResult _ rfl)

theorem dmaDone_noResult (s : State) (d : Dir) (st : Word) : Adds NoResult s (s.dmaDone d st) := by
  rcases dmaDone_cases s d st with ⟨_, h⟩ | ⟨_, _, h⟩ <;> rw [h]
  · exact Adds.refl _ s
  · exact dmaComplete_noResult s d st

/-! #### Commands end with one -/

/-- From `s` to `t` events without a result were appended, then the result `c`, and `RES` holds its code. -/
def EndsWith (c : ResultCode) (s t : State) : Prop :=
  ∃ evs, t.trace = s.trace ++ evs ++ [.result c] ∧ (∀ e, e ∈ evs → NoResult e) ∧ t.res = c.word

theorem Adds.finish (h : Adds NoResult s t) (c : ResultCode) : EndsWith c s (t.finish c) := by
  obtain ⟨evs, htrace, hevs⟩ := h
  exact ⟨evs, by rw [State.finish_trace, htrace], hevs, rfl⟩

theorem finish_endsWith (s : State) (c : ResultCode) : EndsWith c s (s.finish c) := (Adds.refl _ s).finish c

theorem configureWith_endsWith (s : State) (w : Nat) (c : ClkOut) (g : DeviceConfig) :
    EndsWith .ok s (s.quiesce.configureWith w c g) := by
  refine ⟨_, (configureWith_trace s w c g).trans (List.append_assoc _ _ _).symm, ?_, configureWith_res s w c g⟩
  split <;> simp [NoResult, Event.isResult]

theorem configure_endsWith (s : State) :
    EndsWith .ok s s.configure ∨ EndsWith .invalidConfig s s.configure := by
  rcases configure_cases s with ⟨_, h⟩ | ⟨w, _, _, ⟨_, h⟩ | ⟨c, _, h⟩⟩ <;> rw [h]
  · exact .inr (finish_endsWith s _)
  · have quiesced : Adds NoResult s s.quiesce.invalidateCfg := ⟨[], (List.append_nil _).symm, by simp⟩
    exact .inr (quiesced.finish _)
  · exact .inl (configureWith_endsWith s w c _)

theorem disableOne_noResult (s : State) (d : Dir) : Adds NoResult s (s.disableOne d) := by
  rw [disableOne_eq]
  refine ⟨_, rfl, ?_⟩
  unfold stopEvents
  split
  · split <;> simp [NoResult, Event.isResult]
  · simp [NoResult, Event.isResult]

theorem armCleanEvents_noResult (s : State) (d : Dir) : ∀ e, e ∈ s.armCleanEvents d → NoResult e := by
  cases d <;> simp [State.armCleanEvents, NoResult, Event.isResult]

theorem dmaConfigured_noResult (s : State) (d : Dir) : Adds NoResult s (dmaConfigured s d) := by
  rw [dmaConfigured_eq]
  exact ⟨_, List.append_assoc _ _ _,
    List.forall_mem_append.mpr ⟨armCleanEvents_noResult s d, by simp [NoResult, Event.isResult]⟩⟩

theorem dmaStarted_noResult (s : State) (d : Dir) : Adds NoResult s (dmaStarted s d) := by
  rw [dmaStarted_eq]
  exact ⟨_, List.append_assoc _ _ _,
    List.forall_mem_append.mpr ⟨armCleanEvents_noResult s d, by simp [NoResult, Event.isResult]⟩⟩

theorem rollback_endsWith (h : Adds NoResult s t) (d : Dir) (st : Word) :
    EndsWith .transportError s (t.rollback d st) := by
  obtain ⟨evs, htrace, hevs⟩ := h
  exact ⟨evs, by rw [State.rollback, State.finishWith_trace, State.setCh_trace, htrace], hevs, rfl⟩

/-- The codes of an arm, with the causes of `InProgress` and `TransportError` (60_exceptions.md R175, R180). -/
theorem arm_endsWith (s : State) (d : Dir) :
    EndsWith .ok s (s.arm d) ∨ EndsWith .invalidArgument s (s.arm d) ∨
    (EndsWith .inProgress s (s.arm d) ∧ (s.ch.get d).buffer ≠ null) ∨
    (EndsWith .transportError s (s.arm d) ∧ s.params.dma d = true ∧ (s.arm d).x3 ≠ 0#32) := by
  rcases arm_outcomes s d with ⟨_, h⟩ | ⟨_, _, hb, h⟩ | ⟨_, _, _, _, h⟩ |
    ⟨_, _, _, _, ⟨_, h⟩ | ⟨hd, ⟨h0, h⟩ | ⟨_, h1, h⟩ | ⟨_, _, h⟩⟩⟩ <;> rw [h]
  · exact .inr (.inl (finish_endsWith s _))
  · exact .inr (.inr (.inl ⟨finish_endsWith s _, hb⟩))
  · exact .inr (.inl (finish_endsWith s _))
  · rw [armPump_eq]
    exact .inl ⟨[], by simp, by simp, rfl⟩
  · exact .inr (.inr (.inr ⟨rollback_endsWith (dmaConfigured_noResult s d) d _, hd, h0⟩))
  · exact .inr (.inr (.inr ⟨rollback_endsWith (dmaStarted_noResult s d) d _, hd, h1⟩))
  · have started : Adds NoResult s ((dmaStarted s d).startDmaChannel d) := by
      unfold State.startDmaChannel
      split
      · exact dmaStarted_noResult s d
      · exact dmaStarted_noResult s d
    exact .inl (started.finish _)

end

/-- How each operation ends: a command with a result it may report, an event with none. -/
theorem exec_endsWith {i : Instr} {s t : State} (h : exec i s = .next t) :
    (isCommand i = true ∧ (EndsWith .ok s t ∨ (EndsWith .invalidConfig s t ∧ i = .configure) ∨
      ∃ d, i = armInstr d ∧ (EndsWith .invalidArgument s t ∨
        (EndsWith .inProgress s t ∧ (s.ch.get d).buffer ≠ null) ∨
        (EndsWith .transportError s t ∧ s.params.dma d = true ∧ t.x3 ≠ 0#32)))) ∨
    (isCommand i = false ∧ Adds NoResult s t) := by
  rcases exec_kinds h with ⟨rfl, rfl⟩ | ⟨d, rfl, rfl⟩ | ⟨d, rfl, _, rfl⟩ | ⟨d, rfl, rfl⟩ | ⟨rfl, rfl⟩ | ⟨rfl, rfl⟩ |
    ⟨r, rfl, rfl⟩ | ⟨d, st, rfl, rfl⟩
  · exact .inl ⟨rfl, (configure_endsWith s).imp_right fun hc => .inl ⟨hc, rfl⟩⟩
  · exact .inl ⟨by cases d <;> rfl, .inl (finish_endsWith (s.setCb d s.argCallback) .ok)⟩
  · exact .inl ⟨by cases d <;> rfl, (arm_endsWith s d).imp_right fun hc => .inr ⟨d, rfl, hc⟩⟩
  · exact .inl ⟨by cases d <;> rfl, .inl ((disableOne_noResult s d).finish _)⟩
  · exact .inl ⟨rfl, .inl (((disableOne_noResult s .tx).trans (disableOne_noResult _ .rx)).finish _)⟩
  · exact .inl ⟨rfl, .inl ⟨[], by simp [State.getConfig], by simp, rfl⟩⟩
  · exact .inr ⟨rfl, irq_noResult s r⟩
  · exact .inr ⟨rfl, dmaDone_noResult s d st⟩

/-- Settles O60: `exec_endsWith`, with each code as the number `RES` holds. -/
theorem commandEndsWithResult : Obligations.CommandEndsWithResult := by
  unfold Obligations.CommandEndsWithResult
  intro i s t h
  rcases exec_endsWith h with ⟨hi, hend⟩ | ⟨hi, hevs⟩
  case inl =>
    refine ⟨fun _ => ?_, fun hn => by rw [hi] at hn; cases hn⟩
    rcases hend with ⟨evs, htr, hevs, hres⟩ | ⟨⟨evs, htr, hevs, hres⟩, hc⟩ | ⟨d, hd, ⟨evs, htr, hevs, hres⟩ |
      ⟨⟨evs, htr, hevs, hres⟩, hb⟩ | ⟨⟨evs, htr, hevs, hres⟩, hdma, hx⟩⟩
    · exact ⟨_, evs, htr, hevs, .inl ⟨rfl, hres⟩⟩
    · exact ⟨_, evs, htr, hevs, .inr (.inl ⟨rfl, hres, hc⟩)⟩
    · exact ⟨_, evs, htr, hevs, .inr (.inr (.inl ⟨rfl, hres, d, hd⟩))⟩
    · exact ⟨_, evs, htr, hevs, .inr (.inr (.inr (.inl ⟨rfl, hres, d, hd, hb⟩)))⟩
    · exact ⟨_, evs, htr, hevs, .inr (.inr (.inr (.inr ⟨rfl, hres, d, hd, hdma, hx⟩)))⟩
  case inr =>
    refine ⟨fun hn => (by rw [hi] at hn; cases hn), fun _ => ⟨?_, hevs⟩⟩
    exact (exec_res h).resolve_right (by simp [hi])

end Sys2Proof.Machine
